-- ==== Sys2Proof/Word.lean ====
section
/-! DEFINITION. The word types of the block: every value is unsigned and has a stated width (00_scope.md R9). -/

namespace Sys2Proof

/-- An input byte or a window cell, 8 bits (20_memory.md R60). -/
abbrev Byte := BitVec 8

/-- A field of a frame, 16 bits, unsigned (00_scope.md R7, FIELD_WIDTH). -/
abbrev Half := BitVec 16

/-- The selection vector `SEL[6:0]` (30_encoding.md R85). -/
abbrev Sel := BitVec 7

/-- The 32 bytes of a window snapshot, oldest first: the frame format (b) of 30_encoding.md R80. -/
abbrev Frame := Vector Byte 32

/-- The fifteen values of the output frame register, `O[0]` to `O[14]` (10_state.md R35): fourteen data fields, then the checksum. -/
abbrev SensorFrame := Vector Half 15

end Sys2Proof
end

