-- ==== Sys2Proof/Config.lean ====
section
/-! DEFINITION. What is fixed for the block (00_scope.md R7), the record of port inputs, and the values the spec leaves open. -/

namespace Sys2Proof

/-- The input record `I` of one step (42_reader_loop.md R160). -/
structure Input where
  /-- `rst`, driven by the supervisor (70_reset_and_hazards.md R231). -/
  rst : Bool
  /-- `in_valid`: the source offers `inByte`. -/
  inValid : Bool
  /-- `in_byte[7:0]`. -/
  inByte : Byte
  /-- `in_error`: the source reports a read error. -/
  inError : Bool
  /-- `out_ready`: the consumer takes a frame. -/
  outReady : Bool
deriving DecidableEq, Repr, Inhabited

namespace Config

/-- `N`: the window capacity and the frame size, in bytes (00_scope.md R7). -/
abbrev windowSize : Nat := 32

/-- `START`: the start byte (00_scope.md R7, 41_frame_codec.md R134). -/
abbrev startByte : Byte := 0x42

/-- `SUM_SPAN`: the number of leading bytes the checksum sums (00_scope.md R7). -/
abbrev sumSpan : Nat := 30

/-- `SUM_WIDTH`: the width of the checksum arithmetic, in bits (00_scope.md R7). -/
abbrev sumWidth : Nat := 16

/-- `FIELD_COUNT`: the number of data fields (00_scope.md R7). -/
abbrev fieldCount : Nat := 14

/-- `FIELD_WIDTH`: the width of a field, in bits (00_scope.md R7). -/
abbrev fieldWidth : Nat := 16

/-- `FIELD_BASE`: the offset of field 0 in the frame (00_scope.md R7). -/
abbrev fieldBase : Nat := 2

/-- `CHECKSUM_OFFSET`: the offset of the checksum field in the frame (00_scope.md R7). -/
abbrev checksumOffset : Nat := 30

/-- `STEP_LATENCY`, the duration of a step, which the spec leaves OPEN (00_scope.md R8, 92_eei_decisions.md D2).
Nothing in the model or in a statement depends on it. UNVERIFIED by any source, safe: see log 13. -/
opaque stepLatency : Nat

/-- The free input record number `n`: what the environment drives in a step for which no record is listed in the state.
Any value of every port may be driven in any step (60_exceptions.md R211). DESIGN CHOICE, safe: see log 2. -/
opaque envInput : Nat → Input

end Config

end Sys2Proof
end

