-- ==== Sys2Proof/Machine/Codec.lean ====
section
/-! DEFINITION. The Frame Codec: pure functions of one 32-byte frame (41_frame_codec.md). -/

namespace Sys2Proof.Machine

/-- `be_u16(hi, lo) = {hi, lo}` (41_frame_codec.md R130): the byte received earlier is the more significant one. -/
def beU16 (hi lo : Byte) : Half := hi ++ lo

/-- `wrapping_sum` (41_frame_codec.md R131): the byte sum modulo 2^16, first byte first. -/
def wrappingSum (bs : List Byte) : Half := bs.foldl (fun s b => s + b.zeroExtend 16) 0

/-- `wrapping_sum(W[0..29])`: the sum over the 30 leading bytes, start byte and marker byte included (41_frame_codec.md R135). -/
def frameSum (f : Frame) : Half := wrappingSum (f.toList.take Config.sumSpan)

/-- The checksum field `F[15:0] = be_u16(b[30], b[31])` (30_encoding.md R81, R82). -/
def frameChecksum (f : Frame) : Half := beU16 f[30] f[31]

/-- Step 1 of `decode`: only byte 0 is compared, and only with 0x42 (41_frame_codec.md R134). -/
def startByteOk (f : Frame) : Bool := f[0] == Config.startByte

/-- Steps 2 to 4 of `decode`: the checksum field against the sum, all 16 bits compared (41_frame_codec.md R135, R143). -/
def checksumOk (f : Frame) : Bool := frameChecksum f == frameSum f

/-- Step 5 of `decode`: `O[k] = be_u16(b[2+2k], b[3+2k])` for `k` in 0 to 14 (30_encoding.md R83, 41_frame_codec.md R136).
No field is checked, extended or scaled. -/
def extractFields (f : Frame) : SensorFrame :=
  Vector.ofFn fun k : Fin 15 => beU16 (f[2 + 2 * k.val]'(by omega)) (f[3 + 2 * k.val]'(by omega))

/-- The two recoverable decode errors (60_exceptions.md R201). -/
inductive FrameDecodeError where
  | invalidStartByte
  | invalidChecksum
deriving DecidableEq, Repr

/-- `decode` (41_frame_codec.md R133), step by step: the start byte is tested before the checksum (R139). -/
def frameDecode (f : Frame) : Except FrameDecodeError SensorFrame :=
  if f[0] ≠ Config.startByte then .error .invalidStartByte
  else
    let actual := frameSum f
    let expected := frameChecksum f
    if expected ≠ actual then .error .invalidChecksum
    else .ok (extractFields f)

/-- The frame word `F = {W[0], W[1], ..., W[31]}`, byte 0 most significant (30_encoding.md R81). -/
def frameWord (f : Frame) : BitVec 256 :=
  BitVec.ofNat 256 (f.toList.foldl (fun n b => n * 256 + b.toNat) 0)

end Sys2Proof.Machine
end

