-- ==== Sys2Proof/Syntax.lean ====
section
/-! DEFINITION. The operations of the block, one constructor for each row of spec/opcode_table.json. They take the place of
instructions (00_scope.md R2). -/

namespace Sys2Proof

/-- One operation with its operands. FILL carries the input byte (42_reader_loop.md R161, "Operands: `I.in_byte`"); a decision point
carries the frame `F`, the snapshot it decides on (R163, "Operands: the snapshot `F = W[0..31]`"). The other rows have no
operand outside the state. -/
inductive Instr where
  /-- RESET (70_reset_and_hazards.md R230). -/
  | reset
  /-- FAULT_HOLD (42_reader_loop.md R169). -/
  | faultHold
  /-- OUT_ACCEPT (42_reader_loop.md R166). -/
  | outAccept
  /-- OUT_WAIT (42_reader_loop.md R167). -/
  | outWait
  /-- DEC_OK (42_reader_loop.md R163). -/
  | decOk (f : Frame)
  /-- DEC_BAD_CHECKSUM (42_reader_loop.md R165). -/
  | decBadChecksum (f : Frame)
  /-- DEC_BAD_START (42_reader_loop.md R164). -/
  | decBadStart (f : Frame)
  /-- SOURCE_ERROR (42_reader_loop.md R168). -/
  | sourceError
  /-- FILL (42_reader_loop.md R161). -/
  | fill (b : Byte)
  /-- IDLE (42_reader_loop.md R162). -/
  | idle
deriving DecidableEq, Repr

end Sys2Proof
end

