-- ==== Sys2Proof/WellFormed.lean ====
section
/-! DEFINITION. Which operations with their operands are terms of the operation map: the frame condition of each decision row
(30_encoding.md R87). -/

namespace Sys2Proof

/-- The frame of a decision row meets that row's condition (30_encoding.md R87). Every other row takes every operand. -/
def Instr.wellFormed : Instr → Bool
  | .reset => true
  | .faultHold => true
  | .outAccept => true
  | .outWait => true
  | .decOk f => Machine.startByteOk f && Machine.checksumOk f
  | .decBadChecksum f => Machine.startByteOk f && !Machine.checksumOk f
  | .decBadStart f => !Machine.startByteOk f
  | .sourceError => true
  | .fill _ => true
  | .idle => true

end Sys2Proof
end

