-- ==== Sys2Proof/Decode.lean ====
section
/-! DEFINITION. From bits to an operation and back. An operation's bytes are one selection byte, `SEL` in bits 6..0 and bit 7 zero,
then its operand bytes: the input byte for FILL, the 32 frame bytes in stream order for a decision point (log 9). -/

namespace Sys2Proof

/-- The rows of the operation map (30_encoding.md R86); a decision point is split further by its frame (R87). -/
inductive SelOp where
  | reset
  | faultHold
  | outAccept
  | outWait
  | decisionPoint
  | sourceError
  | fill
  | idle
deriving DecidableEq, Repr

/-- One row of the operation map: the row matches when `SEL & mask = pattern`. -/
structure SelRow where
  op : SelOp
  pattern : Sel
  mask : Sel
deriving DecidableEq, Repr

/-- `SEL & mask = match` (30_encoding.md R86). -/
def SelRow.holds (r : SelRow) (sel : Sel) : Bool := (sel &&& r.mask) == r.pattern

/-- The operation map, in priority order (30_encoding.md R86, 60_exceptions.md R207). -/
def selTable : List SelRow :=
  [ ⟨.reset,         0x40, 0x40⟩,
    ⟨.faultHold,     0x20, 0x60⟩,
    ⟨.outAccept,     0x11, 0x71⟩,
    ⟨.outWait,       0x10, 0x71⟩,
    ⟨.decisionPoint, 0x08, 0x78⟩,
    ⟨.sourceError,   0x04, 0x7C⟩,
    ⟨.fill,          0x02, 0x7E⟩,
    ⟨.idle,          0x00, 0x7E⟩ ]

/-- The first row that matches (30_encoding.md R86). Some row matches every value (R88). -/
def selectRow (sel : Sel) : Option SelOp := (selTable.find? (·.holds sel)).map (·.op)

/-- The decision row a frame picks: the first that holds, in the order of 30_encoding.md R87. -/
def classifyFrame (f : Frame) : Instr :=
  if f[0] = Config.startByte then
    if Machine.frameChecksum f = Machine.frameSum f then .decOk f
    else .decBadChecksum f
  else .decBadStart f

/-- Why a byte sequence is no operation. No value of `SEL` is illegal (30_encoding.md R88): each of these is about the byte form only. -/
inductive DecodeError where
  /-- There is no selection byte. -/
  | noBytes
  /-- Bit 7 of the selection byte is set: `SEL` has seven bits. -/
  | selectionBit7
  /-- No row matches; never the case (30_encoding.md R88). -/
  | noRow
  /-- FILL without its byte. -/
  | noInputByte
  /-- A decision point with fewer than 32 frame bytes. -/
  | shortFrame
deriving DecidableEq, Repr

/-- The first 32 bytes as a frame, with the bytes after them. -/
def takeFrame (bs : List Byte) : Option (Frame × List Byte) :=
  if h : 32 ≤ bs.length then
    some (Vector.ofFn fun i : Fin 32 => bs[i.val]'(by omega), bs.drop 32)
  else none

/-- The operation a byte sequence begins with, and the bytes after it. Total; what it refuses it refuses by name. -/
def decode : List Byte → Except DecodeError (Instr × List Byte)
  | [] => .error .noBytes
  | b :: rest =>
    if b.getLsbD 7 then .error .selectionBit7
    else
      match selectRow (b.setWidth 7) with
      | none => .error .noRow
      | some .reset => .ok (.reset, rest)
      | some .faultHold => .ok (.faultHold, rest)
      | some .outAccept => .ok (.outAccept, rest)
      | some .outWait => .ok (.outWait, rest)
      | some .decisionPoint =>
        match takeFrame rest with
        | some (f, rest') => .ok (classifyFrame f, rest')
        | none => .error .shortFrame
      | some .sourceError => .ok (.sourceError, rest)
      | some .fill =>
        match rest with
        | x :: rest' => .ok (.fill x, rest')
        | [] => .error .noInputByte
      | some .idle => .ok (.idle, rest)

/-- The selection byte of a selection vector: `SEL` in bits 6..0, bit 7 zero. -/
def selByte (sel : Sel) : Byte := sel.setWidth 8

/-- The row of the operation map an operation belongs to (30_encoding.md R86, R87). -/
def Instr.selOp : Instr → SelOp
  | .reset => .reset
  | .faultHold => .faultHold
  | .outAccept => .outAccept
  | .outWait => .outWait
  | .decOk _ => .decisionPoint
  | .decBadChecksum _ => .decisionPoint
  | .decBadStart _ => .decisionPoint
  | .sourceError => .sourceError
  | .fill _ => .fill
  | .idle => .idle

/-- The "match" value of the operation's row, every `x` bit of its pattern zero (30_encoding.md R86). -/
def Instr.selPattern : Instr → Sel
  | .reset => 0x40
  | .faultHold => 0x20
  | .outAccept => 0x11
  | .outWait => 0x10
  | .decOk _ => 0x08
  | .decBadChecksum _ => 0x08
  | .decBadStart _ => 0x08
  | .sourceError => 0x04
  | .fill _ => 0x02
  | .idle => 0x00

/-- The operand bytes of an operation, in the order they are received. -/
def Instr.operandBytes : Instr → List Byte
  | .decOk f => f.toList
  | .decBadChecksum f => f.toList
  | .decBadStart f => f.toList
  | .fill b => [b]
  | .reset => []
  | .faultHold => []
  | .outAccept => []
  | .outWait => []
  | .sourceError => []
  | .idle => []

/-- The bytes of an operation: its row's selection byte and its operand bytes. -/
def encode (i : Instr) : List Byte := selByte i.selPattern :: i.operandBytes

/-- An operation's bytes out of a number: byte `k` of `n` bytes is bits `8k+7..8k`, the first byte lowest. -/
def bytesOfNat : Nat → Nat → List Byte
  | 0, _ => []
  | n + 1, w => BitVec.ofNat 8 w :: bytesOfNat n (w / 256)

/-- The longest operation: a selection byte and a frame. -/
def maxOpBytes : Nat := 33

/-- The bytes of a word of `nbits` bits, zero above them, up to the longest operation. -/
def wordBytes (nbits w : Nat) : List Byte :=
  (bytesOfNat ((nbits + 7) / 8) w ++ List.replicate maxOpBytes 0).take maxOpBytes

/-- The operation the decoder reads from a word of `nbits` bits, in whole bytes, the bits above them zero. The first byte is bits 7..0,
so `SEL` is bits 6..0 as spec/opcode_table.json numbers them. -/
def decodeTableWord (nbits w : Nat) : Option Instr :=
  match decode (wordBytes nbits w) with
  | .ok (i, _) => some i
  | .error _ => none

end Sys2Proof
end

