-- ==== Sys2Proof/Machine/State.lean ====
section
/-! DEFINITION. The block's state (10_state.md R30) with the port records of a step (42_reader_loop.md R160), the reasons the model
stops, and the state after reset (10_state.md R47). -/

namespace Sys2Proof.Machine

/-- The result codes (60_exceptions.md R200). The reserved codes 5 to 7 are never produced, and the type leaves them out as
93_implementation_defined.md U12 allows (log 8). -/
inductive ResultCode where
  /-- Code 0, NONE: no decision point or source error yet in this session. -/
  | none
  /-- Code 1, OK. -/
  | ok
  /-- Code 2, INVALID_START_BYTE. -/
  | invalidStartByte
  /-- Code 3, INVALID_CHECKSUM. -/
  | invalidChecksum
  /-- Code 4, SOURCE_ERROR. -/
  | sourceError
deriving DecidableEq, Repr

/-- The phase, which stands in for a program counter (10_state.md R42). -/
inductive Phase where
  | faulted
  | output
  | full
  | filling
deriving DecidableEq, Repr

/-- The output record `Out` of one step (42_reader_loop.md R160). -/
structure Output where
  /-- `in_ready`, from the state before the step. -/
  inReady : Bool
  /-- `consumed`: 1 only in FILL. -/
  consumed : Bool
  /-- `delivered`: a frame only in OUT_ACCEPT. -/
  delivered : Option SensorFrame
  /-- `evt`: a code only in the decision points and SOURCE_ERROR (60_exceptions.md R204). -/
  evt : Option ResultCode
deriving DecidableEq, Repr

/-- The window cells that hold a value, as (index, byte) pairs with strictly rising indices below 32. A cell that is not listed holds
no value (10_state.md R31, 92_eei_decisions.md D26; log 5). -/
abbrev Memory := List Host.Cell

/-- The state. The first seven fields are the record `S` of 10_state.md R30; the last three are the model's own: what the step takes
from the environment and what it gives to it (logs 1, 2, 3). -/
structure State where
  /-- `W`, the window (10_state.md R31). -/
  W : Memory
  /-- `cnt`, the fill count, 6 bits (10_state.md R32). -/
  cnt : BitVec 6
  /-- `out_valid` (10_state.md R34). -/
  outValid : Bool
  /-- `O`, the output frame register (10_state.md R35): read only through `State.readO`. -/
  O : SensorFrame
  /-- `fault`, sticky (10_state.md R36). -/
  fault : Bool
  /-- `resync_count`, 32 bits, saturating (10_state.md R37). -/
  resyncCount : BitVec 32
  /-- `last_result`, 3 bits (10_state.md R39). -/
  lastResult : ResultCode
  /-- The input records of the coming steps, one a step, oldest first (model's own; log 1). -/
  inputs : List Input
  /-- The number of the next free input record (model's own; log 2). -/
  freeIndex : Nat
  /-- The output record of the latest step (model's own; log 3). -/
  out : Output
deriving DecidableEq, Repr

/-- Why the machine stops with a fault. No step from a state reachable from reset does (60_exceptions.md R203). -/
inductive Fault where
  /-- Raised by Push when `cnt` is 32 or more: the window has no such cell (20_memory.md R60; the precondition of
  40_byte_window.md R110). Safe: it stops where the spec gives no effect. Log 6. -/
  | noSuchCell
  /-- Raised by PopFront and Snapshot when a cell they read holds no value (10_state.md R31; the preconditions of 40_byte_window.md
  R111 and R113). Safe: it stops where the spec gives no value. Logs 5, 6. -/
  | cellHoldsNoValue
deriving DecidableEq, Repr

/-- Why the model gives no meaning. -/
inductive Refusal where
  /-- An operation of the table that has no meaning yet. Raised by no arm of `exec` now. Safe: it stops. -/
  | notModelled (mnemonic : String)
  /-- Raised by `step` when the selected bytes are no operation; it never is, since no encoding is illegal (30_encoding.md R88).
  Safe: it stops. Log 9. -/
  | undecodable (e : DecodeError)
  /-- Raised by OUT_ACCEPT applied while `out_valid = 0`, when `O` has no value to give (93_implementation_defined.md U4). `step` never
  selects it there (30_encoding.md R86). Safe: it stops. Log 7. -/
  | frameHoldsNoValue
deriving DecidableEq, Repr

/-- The bits the model names for `O` after reset, for which the spec gives no value (10_state.md R47).
DESIGN CHOICE, unsafe for a claim that reads the field itself while `out_valid = 0`: log 4. -/
def resetO : SensorFrame := Vector.replicate 15 0

/-- The state right after a RESET step (10_state.md R47, 70_reset_and_hazards.md R232, R233): empty window, phase FILLING, aligned.
No input is listed: no program is invented (log 11). -/
def State.reset : State where
  W := []
  cnt := 0
  outValid := false
  O := resetO
  fault := false
  resyncCount := 0
  lastResult := .none
  inputs := []
  freeIndex := 0
  out := { inReady := false, consumed := false, delivered := none, evt := none }

end Sys2Proof.Machine
end

