-- ==== Sys2Proof/Machine/Ops.lean ====
section
/-! DEFINITION. The shared operations: the window memory, the window primitives (40_byte_window.md), the named updates of the state,
raising SourceError (60_exceptions.md R202) and the restart that alone leaves it (R209). -/

namespace Sys2Proof.Machine

/-! ### The window memory -/

/-- The value of the cell at an index, if it holds one. -/
def Memory.read : Memory → Nat → Option Byte
  | [], _ => none
  | (x, v) :: m, a => if a = x then some v else Memory.read m a

/-- Give the cell at an index a value, keeping the indices rising. -/
def Memory.write : Memory → Nat → Byte → Memory
  | [], a, b => [(a, b)]
  | (x, v) :: m, a, b =>
    if a < x then (a, b) :: (x, v) :: m
    else if a = x then (a, b) :: m
    else (x, v) :: Memory.write m a b

/-- The shift of PopFront: `W[i] <- W[i+1]`; the value of cell 0 goes, and the last cell moved from has none (40_byte_window.md R111). -/
def Memory.shiftDown : Memory → Memory
  | [] => []
  | (x, v) :: m => if x = 0 then Memory.shiftDown m else (x - 1, v) :: Memory.shiftDown m

/-- Every index listed is at least `lo`, each is greater than the one before it, and all are below 32. -/
def Memory.risesFrom : Nat → Memory → Bool
  | _, [] => true
  | lo, (x, _) :: m => decide (lo ≤ x) && decide (x < 32) && Memory.risesFrom (x + 1) m

/-- The canonical form: strictly rising indices of cells that exist (20_memory.md R60). A listed cell holds a value and an unlisted one
holds none, so equal windows are equal lists. -/
def Memory.wf (m : Memory) : Bool := Memory.risesFrom 0 m

/-- The window whose cells are the listed bytes, from index `a` on. -/
def Memory.ofBytesFrom : Nat → List Byte → Memory
  | _, [] => []
  | a, b :: bs => (a, b) :: Memory.ofBytesFrom (a + 1) bs

/-- The window that holds the listed bytes from index 0 on. -/
def Memory.ofBytes (bs : List Byte) : Memory := Memory.ofBytesFrom 0 bs

/-! ### Named updates -/

/-- Replace the window and its fill count. -/
def State.setWindow (s : State) (m : Memory) (n : BitVec 6) : State := { s with W := m, cnt := n }

/-- `S.out_valid <- v`. -/
def State.setOutValid (s : State) (v : Bool) : State := { s with outValid := v }

/-- `S.O <- v`. -/
def State.setO (s : State) (v : SensorFrame) : State := { s with O := v }

/-- `S.fault <- v`. -/
def State.setFault (s : State) (v : Bool) : State := { s with fault := v }

/-- `S.resync_count <- n`. -/
def State.setResyncCount (s : State) (n : BitVec 32) : State := { s with resyncCount := n }

/-- `S.last_result <- c`. -/
def State.setLastResult (s : State) (c : ResultCode) : State := { s with lastResult := c }

/-- `Out.consumed <- 1`. -/
def State.setConsumed (s : State) : State := { s with out := { s.out with consumed := true } }

/-- `Out.delivered <- v`. -/
def State.setDelivered (s : State) (v : SensorFrame) : State := { s with out := { s.out with delivered := some v } }

/-- `emit_event(c)`: set the step's event output (00_scope.md R12, 60_exceptions.md R204). -/
def State.emitEvent (s : State) (c : ResultCode) : State := { s with out := { s.out with evt := some c } }

/-! ### Accessors -/

/-- Cell `W[i]`: it holds a value only below `cnt` (10_state.md R31). -/
def State.cell (s : State) (i : Nat) : Option Byte := if i < s.cnt.toNat then s.W.read i else none

/-- `O`, which has no value while `out_valid = 0` (10_state.md R35, 70_reset_and_hazards.md R240). -/
def State.readO (s : State) : Option SensorFrame := if s.outValid then some s.O else none

/-- `MemRead(i, 2) = {W[i], W[i+1]}`, big-endian (00_scope.md R12, 20_memory.md R63). `MemRead(i, 1)` is `State.cell`. -/
def State.memRead16 (s : State) (i : Nat) : Option Half :=
  match s.cell i, s.cell (i + 1) with
  | some hi, some lo => some (beU16 hi lo)
  | _, _ => none

/-! ### Window primitives -/

/-- `Push(b)` (40_byte_window.md R110): `W[cnt] <- b`, `cnt <- cnt + 1`. Outside its precondition there is no cell to write. -/
def push (b : Byte) (s : State) : Except Fault State :=
  if s.cnt.toNat < 32 then .ok (s.setWindow (s.W.write s.cnt.toNat b) (s.cnt + 1))
  else .error .noSuchCell

/-- `PopFront()` (40_byte_window.md R111): the oldest byte, and the state with the rest shifted toward index 0 and `cnt` one less. -/
def popFront (s : State) : Except Fault (Byte × State) :=
  match s.cell 0 with
  | some old => .ok (old, s.setWindow s.W.shiftDown (s.cnt - 1))
  | none => .error .cellHoldsNoValue

/-- `Clear()` (40_byte_window.md R112): `cnt <- 0`, after which no cell has a value. -/
def clear (s : State) : State := s.setWindow [] 0

/-- `Snapshot()` (40_byte_window.md R113): all 32 cells, without changing them. -/
def snapshot (s : State) : Except Fault Frame :=
  if h : ∀ i : Fin 32, (s.cell i.val).isSome then .ok (Vector.ofFn fun i : Fin 32 => (s.cell i.val).get (h i))
  else .error .cellHoldsNoValue

/-! ### The exception and the restart -/

/-- `raise SourceError()`, the block's only exception (60_exceptions.md R202, 42_reader_loop.md R168): `fault <- 1`, `last_result <- 4`,
event 4. Nothing is saved but the code, and control goes to phase FAULTED (60_exceptions.md R208). -/
def raiseSourceError (s : State) : State := ((s.setFault true).setLastResult .sourceError).emitEvent .sourceError

/-- The restart that starts a new session (70_reset_and_hazards.md R230), the only return from FAULTED (60_exceptions.md R209). `O` then
holds no value (10_state.md R47); its bits are the ones `State.reset` names (log 4). -/
def restart (s : State) : State :=
  (((((clear s).setOutValid false).setFault false).setResyncCount 0).setLastResult .none).setO resetO

end Sys2Proof.Machine
end

