-- ==== Sys2Proof/Machine/Flags.lean ====
section
/-! DEFINITION. What is computed from the state: flags, phase, ready outputs, status views, the saturating count, the event port. -/

namespace Sys2Proof.Machine

/-- The number of a result code, 3 bits (60_exceptions.md R200). -/
def ResultCode.code : ResultCode → BitVec 3
  | .none => 0
  | .ok => 1
  | .invalidStartByte => 2
  | .invalidChecksum => 3
  | .sourceError => 4

/-- `resyncing = (resync_count != 0)` (10_state.md R38). -/
def State.resyncing (s : State) : Bool := s.resyncCount != 0

/-- `min(n + 1, 2^32 - 1)` (10_state.md R37). -/
def saturatingSucc (n : BitVec 32) : BitVec 32 := if n = 0xFFFFFFFF then n else n + 1

/-- Window full, `cnt = 32` (30_encoding.md R85, SEL[3]). -/
def State.full (s : State) : Bool := s.cnt == 32

/-- `phase(S)` (10_state.md R42). -/
def State.phase (s : State) : Phase :=
  if s.fault then .faulted
  else if s.outValid then .output
  else if s.full then .full
  else .filling

/-- `in_ready(S)` (10_state.md R44). -/
def State.inReady (s : State) : Bool := !s.fault && !s.outValid && decide (s.cnt.toNat < 32)

/-- `out_valid_port(S)` (10_state.md R44). -/
def State.outValidPort (s : State) : Bool := s.outValid

/-- `STATUS[15:0]` (10_state.md R45): reserved zeros, CNT, LAST_RESULT, RESYNCING, FAULT, OUT_VALID. -/
def State.status (s : State) : BitVec 16 :=
  0#4 ++ s.cnt ++ s.lastResult.code ++ BitVec.ofBool s.resyncing ++ BitVec.ofBool s.fault ++ BitVec.ofBool s.outValid

/-- `RESYNC_COUNT[31:0]` (10_state.md R45). -/
def State.resyncCountPort (s : State) : BitVec 32 := s.resyncCount

/-- `evt_valid` of the latest step (60_exceptions.md R204). -/
def State.evtValid (s : State) : Bool := s.out.evt.isSome

/-- `evt_code` of the latest step, when `evt_valid = 1` (60_exceptions.md R204). -/
def State.evtCode (s : State) : Option (BitVec 3) := s.out.evt.map (·.code)

/-- The output record at the start of a step: `in_ready` from the state before it, and nothing else yet (42_reader_loop.md R160). -/
def State.startOutput (s : State) : Output :=
  { inReady := s.inReady, consumed := false, delivered := none, evt := none }

end Sys2Proof.Machine
end

