-- ==== Sys2Proof/Machine/Operands.lean ====
section
/-! DEFINITION. What a step reads: its input record, the selection vector (30_encoding.md R85), the operand bytes; and the output frame
bus (R84). -/

namespace Sys2Proof.Machine

/-- The input record of the next step: the oldest one listed, or a free one when none is (logs 1, 2). -/
def State.nextInput (s : State) : Input :=
  match s.inputs with
  | i :: _ => i
  | [] => Config.envInput s.freeIndex

/-- The counter of free input records after the next step has taken its input record. -/
def State.nextFreeIndex (s : State) : Nat :=
  match s.inputs with
  | _ :: _ => s.freeIndex
  | [] => s.freeIndex + 1

/-- The state in which a step applies its operation: the input record taken, the output record begun (42_reader_loop.md R160). -/
def State.beginStep (s : State) : State :=
  { s with inputs := s.inputs.tail, freeIndex := s.nextFreeIndex, out := s.startOutput }

/-- `SEL = {rst, fault, out_valid, (cnt = 32), in_error, in_valid, out_ready}` (30_encoding.md R85). -/
def selVector (i : Input) (s : State) : Sel :=
  BitVec.ofBool i.rst ++ BitVec.ofBool s.fault ++ BitVec.ofBool s.outValid ++ BitVec.ofBool s.full ++
    BitVec.ofBool i.inError ++ BitVec.ofBool i.inValid ++ BitVec.ofBool i.outReady

/-- The bytes of the operation a step takes: the selection byte, then the snapshot at a decision point (42_reader_loop.md R160) or the input
byte in a FILL (R161). It takes the place of fetching an instruction. -/
def fetchOp (i : Input) (s : State) : Except Fault (List Byte) :=
  match selectRow (selVector i s) with
  | some .decisionPoint =>
    match snapshot s with
    | .ok f => .ok (selByte (selVector i s) :: f.toList)
    | .error e => .error e
  | some .fill => .ok [selByte (selVector i s), i.inByte]
  | _ => .ok [selByte (selVector i s)]

/-- The operation the next step takes, if there is one. -/
def selectedOp (s : State) : Option Instr :=
  match fetchOp s.nextInput s with
  | .ok bytes =>
    match decode bytes with
    | .ok (i, _) => some i
    | .error _ => none
  | .error _ => none

/-- The output frame bus of a frame value: `out_frame[16k+15 : 16k] = O[k]` (30_encoding.md R84). -/
def frameBus (v : SensorFrame) : BitVec 240 :=
  BitVec.ofNat 240 (v.toList.foldr (fun h n => h.toNat + 65536 * n) 0)

/-- `out_frame_port(S)`, which has a value only while `out_valid = 1` (10_state.md R44). -/
def State.outFramePort (s : State) : Option (BitVec 240) := s.readO.map frameBus

/-- The window and fill count that make `SEL[3]` the given bit, with the given 32 bytes where the window is to be full. -/
def State.placeWindow (s : State) (isFull : Bool) (frame : List Byte) : State :=
  if isFull then s.setWindow (Memory.ofBytes frame) 32
  else if s.full then s.setWindow [] 0
  else s

/-- The state in which the next step forms a given selection vector and operand bytes: the inputs of one step in front of those listed,
`fault`, `out_valid`, and the window (log 11). -/
def State.placeOp (s : State) (sel : Sel) (operand : List Byte) : State :=
  let record : Input :=
    { rst := sel.getLsbD 6, inError := sel.getLsbD 2, inValid := sel.getLsbD 1, outReady := sel.getLsbD 0,
      inByte := operand.headD 0 }
  let s' := (s.placeWindow (sel.getLsbD 3) operand).setFault (sel.getLsbD 5)
  { s'.setOutValid (sel.getLsbD 4) with inputs := record :: s.inputs }

end Sys2Proof.Machine
end

