-- ==== Sys2Proof/Machine/DecisionOps.lean ====
section
/-! DEFINITION. The decision points: DEC_OK, DEC_BAD_START, DEC_BAD_CHECKSUM (42_reader_loop.md, "Decision points"). The operand `f` is the
snapshot the step decided on (log 10). -/

namespace Sys2Proof.Machine

/-- The slide of a failed decode, with its result code (42_reader_loop.md R164, R165): `PopFront()`, whose byte goes nowhere,
`resync_count` one more, saturating, `last_result` and the event. -/
def slide (c : ResultCode) (s : State) : Host.Outcome State Fault Refusal :=
  match popFront s with
  | .ok (_, s') => .next (((s'.setResyncCount (saturatingSucc s.resyncCount)).setLastResult c).emitEvent c)
  | .error e => .fault e

/-- DEC_OK (42_reader_loop.md R163): `O` takes the fifteen values of the frame, the window is cleared, the block is aligned. -/
def execDecOk (f : Frame) (s : State) : Host.Outcome State Fault Refusal :=
  .next (((((clear ((s.setO (extractFields f)).setOutValid true)).setResyncCount 0).setLastResult .ok).emitEvent .ok))

/-- DEC_BAD_START (42_reader_loop.md R164): the start byte is wrong, whatever the rest of the frame holds. -/
def execDecBadStart (_f : Frame) (s : State) : Host.Outcome State Fault Refusal := slide .invalidStartByte s

/-- DEC_BAD_CHECKSUM (42_reader_loop.md R165): the start byte is right and the checksum does not match. -/
def execDecBadChecksum (_f : Frame) (s : State) : Host.Outcome State Fault Refusal := slide .invalidChecksum s

end Sys2Proof.Machine
end

