-- ==== Sys2Proof/Machine/ErrorOps.lean ====
section
/-! DEFINITION. The error operations: SOURCE_ERROR and FAULT_HOLD (42_reader_loop.md, "Error operations"). -/

namespace Sys2Proof.Machine

/-- SOURCE_ERROR (42_reader_loop.md R168): `raise SourceError()`. `W`, `cnt`, `O` and `resync_count` are not written. -/
def execSourceError (s : State) : Host.Outcome State Fault Refusal := .next (raiseSourceError s)

/-- FAULT_HOLD (42_reader_loop.md R169): a faulted session does nothing. -/
def execFaultHold (s : State) : Host.Outcome State Fault Refusal := .next s

end Sys2Proof.Machine
end

