-- ==== Sys2Proof/Machine/InputOps.lean ====
section
/-! DEFINITION. The input operations: FILL and IDLE (42_reader_loop.md, "Input operations"). -/

namespace Sys2Proof.Machine

/-- FILL (42_reader_loop.md R161): `Push(in_byte)`, `Out.consumed <- 1`. -/
def execFill (b : Byte) (s : State) : Host.Outcome State Fault Refusal :=
  match push b s with
  | .ok s' => .next s'.setConsumed
  | .error e => .fault e

/-- IDLE (42_reader_loop.md R162): the blocked read; no state changes. -/
def execIdle (s : State) : Host.Outcome State Fault Refusal := .next s

end Sys2Proof.Machine
end

