-- ==== Sys2Proof/Machine/OutputOps.lean ====
section
/-! DEFINITION. The output operations: OUT_ACCEPT and OUT_WAIT (42_reader_loop.md, "Output operations"). -/

namespace Sys2Proof.Machine

/-- OUT_ACCEPT (42_reader_loop.md R166): `Out.delivered <- S.O`, `S.out_valid <- 0`. `O` is read through its accessor, which has no value
while `out_valid = 0` (log 7). -/
def execOutAccept (s : State) : Host.Outcome State Fault Refusal :=
  match s.readO with
  | some v => .next ((s.setDelivered v).setOutValid false)
  | none => .refused .frameHoldsNoValue

/-- OUT_WAIT (42_reader_loop.md R167): the frame stays pending; no state changes. -/
def execOutWait (s : State) : Host.Outcome State Fault Refusal := .next s

end Sys2Proof.Machine
end

