-- ==== Sys2Proof/Machine/ResetOps.lean ====
section
/-! DEFINITION. RESET (70_reset_and_hazards.md R230). -/

namespace Sys2Proof.Machine

/-- RESET (70_reset_and_hazards.md R230): a new session; a pending frame and a partial window are discarded. -/
def execReset (s : State) : Host.Outcome State Fault Refusal := .next (restart s)

end Sys2Proof.Machine
end

