-- ==== Sys2Proof/Machine/Dispatch.lean ====
section
/-! DEFINITION. One arm for each operation. -/

namespace Sys2Proof.Machine

/-- The meaning of an operation (42_reader_loop.md R161 to R169, 70_reset_and_hazards.md R230). -/
def exec (i : Instr) (s : State) : Host.Outcome State Fault Refusal :=
  match i with
  | .reset => Sys2Proof.Machine.execReset s
  | .faultHold => Sys2Proof.Machine.execFaultHold s
  | .outAccept => Sys2Proof.Machine.execOutAccept s
  | .outWait => Sys2Proof.Machine.execOutWait s
  | .decOk f => Sys2Proof.Machine.execDecOk f s
  | .decBadChecksum f => Sys2Proof.Machine.execDecBadChecksum f s
  | .decBadStart f => Sys2Proof.Machine.execDecBadStart f s
  | .sourceError => Sys2Proof.Machine.execSourceError s
  | .fill b => Sys2Proof.Machine.execFill b s
  | .idle => Sys2Proof.Machine.execIdle s

end Sys2Proof.Machine
end

