-- ==== Sys2Proof/Machine/Step.lean ====
section
/-! DEFINITION. One step of the block (42_reader_loop.md R160). -/

namespace Sys2Proof.Machine

/-- One step (42_reader_loop.md R160): form the operation's bytes from the inputs and the state before the step, read the operation from
them, and apply it to the state with the input record taken and the output record begun. -/
def step (s : State) : Host.Outcome State Fault Refusal :=
  match fetchOp s.nextInput s with
  | .error e => .fault e
  | .ok bytes =>
    match decode bytes with
    | .error e => .refused (.undecodable e)
    | .ok (i, _) => exec i s.beginStep

/-- The state whose next step takes the operation of a word laid out as `decodeTableWord` reads it (log 11). -/
def State.withFetchWord (s : State) (nbits w : Nat) : State :=
  match wordBytes nbits w with
  | b :: operand => s.placeOp (b.setWidth 7) operand
  | [] => s

end Sys2Proof.Machine
end

