-- ==== Sys2Proof/Machine/Script.lean ====
section
/-! DEFINITION. The stimulus script: step lines (30_encoding.md R92) and pseudo-operations (R93). It is test notation for the inputs of
steps; the block itself has no assembler. -/

namespace Sys2Proof.Machine

/-- The step lines `RST`, `B hh`, `ERR`, `NOP` (30_encoding.md R92). -/
inductive LineKind where
  | rst
  | byte (b : Byte)
  | err
  | nop
deriving DecidableEq, Repr

/-- A step line; `stall` is the suffix `!`. -/
structure ScriptLine where
  kind : LineKind
  stall : Bool
deriving DecidableEq, Repr

/-- The inputs of a step line (30_encoding.md R92): `out_ready` is 0 in `RST` and in any line that ends in `!`. -/
def ScriptLine.toInput (l : ScriptLine) : Input :=
  match l.kind with
  | .rst => { rst := true, inValid := false, inByte := 0, inError := false, outReady := false }
  | .byte b => { rst := false, inValid := true, inByte := b, inError := false, outReady := !l.stall }
  | .err => { rst := false, inValid := false, inByte := 0, inError := true, outReady := !l.stall }
  | .nop => { rst := false, inValid := false, inByte := 0, inError := false, outReady := !l.stall }

/-- The state in which the next step has the inputs of a line. -/
def State.offer (s : State) (l : ScriptLine) : State := { s with inputs := l.toInput :: s.inputs }

/-- One step with the inputs of a line. -/
def runLine (l : ScriptLine) (s : State) : Host.Outcome State Fault Refusal := step (s.offer l)

/-- The steps of several lines, one after another. -/
def runLines : List ScriptLine → State → Host.Outcome State Fault Refusal
  | [], s => .next s
  | l :: ls, s =>
    match runLine l s with
    | .next s' => runLines ls s'
    | .fault e => .fault e
    | .refused r => .refused r

/-- What one byte of a FEED comes to. -/
inductive FeedResult where
  /-- A step selected FILL. -/
  | consumed (s : State)
  /-- A step selected FAULT_HOLD: the block is faulted, and the FEED stops. -/
  | faulted (s : State)
  /-- Neither, within the steps given. -/
  | unfinished
deriving DecidableEq, Repr

/-- `B hh` lines until one selects FILL or FAULT_HOLD, at most the given number (30_encoding.md R93). -/
def feedByte (b : Byte) : Nat → State → FeedResult
  | 0, _ => .unfinished
  | n + 1, s =>
    match selectedOp (s.offer ⟨.byte b, false⟩), runLine ⟨.byte b, false⟩ s with
    | some (.fill _), .next s' => .consumed s'
    | some .faultHold, .next s' => .faulted s'
    | some _, .next s' => feedByte b n s'
    | _, _ => .unfinished

/-- The most `B hh` lines one byte takes while `fault = 0` (30_encoding.md R93). -/
def feedSteps : Nat := 3

/-- `FEED h0 h1 ...`: each byte in order; it stops at once when the block is faulted (30_encoding.md R93). `RAW` is the same over 32 bytes. -/
def feed : List Byte → State → Option State
  | [], s => some s
  | b :: bs, s =>
    match feedByte b feedSteps s with
    | .consumed s' => feed bs s'
    | .faulted s' => some s'
    | .unfinished => none

/-- `SETTLE`: `NOP` lines until one selects IDLE or FAULT_HOLD, that step included, at most the given number (30_encoding.md R93). -/
def settle : Nat → State → Option State
  | 0, _ => none
  | n + 1, s =>
    match selectedOp (s.offer ⟨.nop, false⟩), runLine ⟨.nop, false⟩ s with
    | some .idle, .next s' => some s'
    | some .faultHold, .next s' => some s'
    | some _, .next s' => settle n s'
    | _, _ => none

/-- The two big-endian bytes of a value. -/
def halfBytes (h : Half) : List Byte := [h.extractLsb' 8 8, h.extractLsb' 0 8]

/-- The 30 leading bytes of `FRAME f0 ... f13`: `42 4D`, then each value (30_encoding.md R93). -/
def frameLead (fields : Vector Half 14) : List Byte := 0x42 :: 0x4D :: fields.toList.flatMap halfBytes

/-- The 32 bytes that `FRAME f0 ... f13` feeds: the leading bytes and their wrap-around sum (30_encoding.md R93). -/
def frameBytes (fields : Vector Half 14) : List Byte := frameLead fields ++ halfBytes (wrappingSum (frameLead fields))

end Sys2Proof.Machine
end

