-- ==== Sys2Proof/Safety.lean ====
section
/-! DEFINITION. What counts as a safe state, what a run is, and the stream terms of 42_reader_loop.md that claims are stated in. -/

namespace Sys2Proof.Machine

/-! ### Safe states -/

/-- The cells that hold a value are exactly `W[0]` to `W[cnt-1]`, and there are at most 32 (10_state.md R31, R40 (a)). -/
abbrev State.windowFilled (s : State) : Prop :=
  s.W.map Prod.fst = List.range s.cnt.toNat ∧ s.cnt.toNat ≤ 32

/-- The invariants (a) to (d) of 10_state.md R40, and the window's content up to `cnt`. -/
abbrev State.Inv (s : State) : Prop :=
  s.windowFilled ∧
  (s.outValid = true → s.cnt = 0) ∧
  (s.fault = true → s.outValid = false) ∧
  (s.outValid = true → s.resyncCount = 0)

/-- What the latest result code says of the rest of the state: a session is faulted exactly when its latest result is SOURCE_ERROR, a
pending frame follows a result OK, and a session with failed decodes since its last success is not at NONE or OK. -/
abbrev State.resultInv (s : State) : Prop :=
  (s.fault = true ↔ s.lastResult = .sourceError) ∧
  (s.outValid = true → s.lastResult = .ok) ∧
  (s.resyncCount ≠ 0 → s.lastResult ≠ .none ∧ s.lastResult ≠ .ok)

/-- The fields that 10_state.md R47 gives a value, at that value: a session just begun. -/
abbrev State.sessionStart (s : State) : Prop :=
  s.W = [] ∧ s.cnt = 0 ∧ s.outValid = false ∧ s.fault = false ∧ s.resyncCount = 0 ∧ s.lastResult = .none

/-- The same record `S` (10_state.md R30): the fields of the block's own state agree. -/
abbrev State.sameBlock (s t : State) : Prop :=
  s.W = t.W ∧ s.cnt = t.cnt ∧ s.outValid = t.outValid ∧ s.O = t.O ∧ s.fault = t.fault ∧
  s.resyncCount = t.resyncCount ∧ s.lastResult = t.lastResult

/-- The state with another record of inputs for its next step. -/
def State.withInput (s : State) (i : Input) : State := { s with inputs := i :: s.inputs }

/-! ### Runs -/

/-- One step of a run: the operation it applied and its output record. -/
structure Event where
  op : Instr
  out : Output
deriving DecidableEq, Repr

/-- `Run s h t`: from `s`, the steps recorded in `h` lead to `t`, whatever the environment drives in them. -/
inductive Run : State → List Event → State → Prop where
  | refl (s : State) : Run s [] s
  | snoc {s t u : State} {h : List Event} {i : Instr} (before : Run s h t) (selects : selectedOp t = some i)
      (steps : step t = .next u) : Run s (h ++ [⟨i, u.out⟩]) u

/-- The byte a FILL consumes. -/
def Event.consumedByte (e : Event) : Option Byte :=
  match e.op with
  | .fill b => some b
  | _ => none

/-- The bytes consumed in a run, in order (42_reader_loop.md R174, `s[0..L-1]`). -/
def consumedBytes (h : List Event) : List Byte := h.filterMap Event.consumedByte

/-- The frames delivered in a run, in order. -/
def deliveredFrames (h : List Event) : List SensorFrame := h.filterMap (·.out.delivered)

/-- No RESET and no SOURCE_ERROR: the run stays within one session that has no read error. -/
def oneSession (h : List Event) : Prop := ∀ e ∈ h, e.op ≠ .reset ∧ e.op ≠ .sourceError

/-- A DEC_OK step. -/
def Event.isOk (e : Event) : Bool :=
  match e.op with
  | .decOk _ => true
  | _ => false

/-- A failed decision: a DEC_BAD_START or DEC_BAD_CHECKSUM step. -/
def Event.isFail (e : Event) : Bool :=
  match e.op with
  | .decBadStart _ => true
  | .decBadChecksum _ => true
  | _ => false

/-- The bytes consumed since the later of the last RESET and the last DEC_OK (40_byte_window.md R117). -/
def bytesSinceFresh (h : List Event) : List Byte :=
  h.foldl (fun acc e =>
    match e.op with
    | .fill b => acc ++ [b]
    | .reset => []
    | .decOk _ => []
    | _ => acc) []

/-! ### Decisions and the scan of a stream -/

/-- A decision: the stream position of its window, the window itself, and its result with the values where there are any
(42_reader_loop.md R174). -/
structure Decision where
  pos : Nat
  window : Frame
  result : Except FrameDecodeError SensorFrame
deriving DecidableEq, Repr

/-- The decisions of a run whose steps so far have consumed `n` bytes: the window of a decision is the last 32 of them. -/
def decisionsFrom : Nat → List Event → List Decision
  | _, [] => []
  | n, e :: h =>
    match e.op with
    | .fill _ => decisionsFrom (n + 1) h
    | .decOk f => ⟨n - 32, f, .ok (extractFields f)⟩ :: decisionsFrom n h
    | .decBadStart f => ⟨n - 32, f, .error .invalidStartByte⟩ :: decisionsFrom n h
    | .decBadChecksum f => ⟨n - 32, f, .error .invalidChecksum⟩ :: decisionsFrom n h
    | _ => decisionsFrom n h

/-- The decisions of a run from the start of a session, with their stream positions. -/
def decisions (h : List Event) : List Decision := decisionsFrom 0 h

/-- The frames of the OK decisions, in order. -/
def okFrames (ds : List Decision) : List SensorFrame :=
  ds.filterMap fun d =>
    match d.result with
    | .ok v => some v
    | .error _ => none

/-- `scan(p)` over the bytes from position `p` on, with the bytes at which it stops (42_reader_loop.md R174). Each turn takes at least one
byte, so as many turns as there are bytes are enough. -/
def scanFrom : Nat → Nat → List Byte → List Decision × List Byte
  | 0, _, s => ([], s)
  | n + 1, p, s =>
    match takeFrame s with
    | none => ([], s)
    | some (f, rest) =>
      match frameDecode f with
      | .ok v => (⟨p, f, .ok v⟩ :: (scanFrom n (p + 32) rest).1, (scanFrom n (p + 32) rest).2)
      | .error e => (⟨p, f, .error e⟩ :: (scanFrom n (p + 1) s.tail).1, (scanFrom n (p + 1) s.tail).2)

/-- `scan(0)` of a stream, with the bytes at which it stops. -/
def scan (s : List Byte) : List Decision × List Byte := scanFrom s.length 0 s

/-- `decode(s[p..p+31])`, if the stream has that window. -/
def decodeAt (s : List Byte) (p : Nat) : Option (Except FrameDecodeError SensorFrame) :=
  (takeFrame (s.drop p)).map fun r => frameDecode r.1

/-! ### What a state and the steps that led to it say of each other -/

/-- The window holds the last `cnt` of the given bytes, in order, and no other cell holds a value. -/
abbrev State.holdsLast (t : State) (s : List Byte) : Prop :=
  t.windowFilled ∧ t.cnt.toNat ≤ s.length ∧ ∀ a, t.cell a = (s.drop (s.length - t.cnt.toNat))[a]?

/-- The position of the window in the bytes consumed. -/
abbrev windowPos (h : List Event) (t : State) : Nat := (consumedBytes h).length - t.cnt.toNat

/-- The decisions taken and the scan of what the window holds are together the scan of the bytes consumed, and the frames of the OK decisions
are those delivered and the pending one (42_reader_loop.md R174). -/
abbrev followsScan (h : List Event) (t : State) : Prop :=
  t.holdsLast (consumedBytes h) ∧
  (let ahead := scanFrom t.cnt.toNat (windowPos h t) ((consumedBytes h).drop (windowPos h t))
   scan (consumedBytes h) = (decisions h ++ ahead.1, ahead.2)) ∧
  okFrames (decisions h) = deliveredFrames h ++ (if t.outValid then [t.O] else [])

/-- No decode has succeeded yet: every window before the one held failed, there was one failed decision for each, and `resync_count` shows their
number up to its saturation (42_reader_loop.md R176, 10_state.md R37). -/
abbrev huntsFirstFrame (h : List Event) (t : State) : Prop :=
  t.holdsLast (consumedBytes h) ∧
  (∀ j, j < windowPos h t → ∃ e, decodeAt (consumedBytes h) j = some (.error e)) ∧
  h.countP Event.isFail = windowPos h t ∧
  t.resyncCount.toNat = min (windowPos h t) (2 ^ 32 - 1)

end Sys2Proof.Machine
end

