-- ==== Sys2Proof/Certificates/Slice0/Obligations.lean ====
section
/-! DEFINITION. The statements for the provers. Each docstring names the rule of spec/ it formalises. -/

open Sys2Proof Sys2Proof.Machine

/-! ### Encodings -/

/-- Words written out from 30_encoding.md R86 and R87 decode to their operations. The byte form, a selection byte with bit 7 zero and then
the operand bytes, is the model's choice (log 9). -/
def Obligations.ListedWordsDecodeToTheirOperations : Prop :=
  decodeTableWord 8 0x40 = some .reset ∧
  decodeTableWord 8 0x7F = some .reset ∧
  decodeTableWord 8 0x3F = some .faultHold ∧
  decodeTableWord 8 0x1F = some .outAccept ∧
  decodeTableWord 8 0x10 = some .outWait ∧
  decodeTableWord 8 0x07 = some .sourceError ∧
  decodeTableWord 16 0x4203 = some (.fill 0x42) ∧
  decodeTableWord 8 0x01 = some .idle ∧
  decode (0x0F :: 0x42 :: List.replicate 29 0x00 ++ [0x00, 0x42]) =
    .ok (.decOk (Vector.ofFn fun i : Fin 32 => if i.val = 0 ∨ i.val = 31 then 0x42 else 0x00), []) ∧
  decode (0x08 :: 0x42 :: List.replicate 31 0x00) =
    .ok (.decBadChecksum (Vector.ofFn fun i : Fin 32 => if i.val = 0 then 0x42 else 0x00), []) ∧
  decode (0x08 :: List.replicate 32 0x00) = .ok (.decBadStart (Vector.replicate 32 0x00), [])

/-- 30_encoding.md R88: every selection value has one row, every frame one decision row, no encoding is illegal, and no operation but
SOURCE_ERROR, which no encoding forces, raises the exception. -/
def Obligations.EverySelectionAndFrameHasOneRow : Prop :=
  (∀ sel : Sel, ∃! r : SelRow, r ∈ selTable ∧ r.holds sel = true) ∧
  (∀ f : Frame, ∃! i : Instr, i ∈ [Instr.decOk f, Instr.decBadChecksum f, Instr.decBadStart f] ∧ i.wellFormed = true) ∧
  (∀ sel : Sel, (selectRow sel).isSome = true) ∧
  (∀ (i : Instr) (s t : State), i ≠ .sourceError → exec i s = .next t → t.fault = true → s.fault = true)

/-- Decoding the encoding of a well-formed operation gives it back, whatever follows it, with every operand value (30_encoding.md R86, R87).
The byte form is the model's choice (log 9). -/
def Obligations.DecodeOfEncodeIsTheOperation : Prop :=
  ∀ (i : Instr) (rest : List Byte), i.wellFormed = true → decode (encode i ++ rest) = .ok (i, rest)

/-- What decodes is well formed, and its bytes are a selection byte of its row, its operand bytes and the rest: only the `x` bits of the
row's pattern are dropped (30_encoding.md R86, R87). The byte form is the model's choice (log 9). -/
def Obligations.DecodedBytesAreTheOperationsEncoding : Prop :=
  ∀ (bs : List Byte) (i : Instr) (rest : List Byte), decode bs = .ok (i, rest) →
    i.wellFormed = true ∧ ∃ sel : Sel, bs = selByte sel :: (i.operandBytes ++ rest) ∧ selectRow sel = some i.selOp

/-- 30_encoding.md R81: the frame word has byte `i` in bits 255-8i to 248-8i, the checksum field in bits 15 to 0, and data field `k` in bits
239-16k to 224-16k. -/
def Obligations.FrameWordPlacesBytesAndFields : Prop :=
  ∀ f : Frame,
    (∀ i : Fin 32, (frameWord f).extractLsb' (248 - 8 * i.val) 8 = f[i]) ∧
    (frameWord f).extractLsb' 0 16 = frameChecksum f ∧
    (∀ k : Fin 14, (frameWord f).extractLsb' (224 - 16 * k.val) 16 = (extractFields f)[k.val])

/-- 30_encoding.md R87: the frame match and mask with the checksum condition pick the decision row, first row that holds, and this is the
decode function read as a classifier. -/
def Obligations.FrameRowsClassifyAsDecodeDoes : Prop :=
  ∀ f : Frame,
    (classifyFrame f =
      if frameWord f &&& 0xff00000000000000000000000000000000000000000000000000000000000000 =
          0x4200000000000000000000000000000000000000000000000000000000000000 then
        if (frameWord f).extractLsb' 0 16 = wrappingSum (f.toList.take 30) then .decOk f else .decBadChecksum f
      else .decBadStart f) ∧
    (classifyFrame f = .decOk f ↔ ∃ v, frameDecode f = .ok v) ∧
    (classifyFrame f = .decBadChecksum f ↔ frameDecode f = .error .invalidChecksum) ∧
    (classifyFrame f = .decBadStart f ↔ frameDecode f = .error .invalidStartByte)

/-! ### Frame Codec -/

/-- 41_frame_codec.md R130: `be_u16` is big-endian assembly. -/
def Obligations.BeU16IsBigEndianAssembly : Prop :=
  (∀ hi lo : Byte, (beU16 hi lo).toNat = hi.toNat * 256 + lo.toNat ∧ beU16 hi lo = hi ++ lo) ∧
  beU16 0xFF 0xFF = 65535 ∧ beU16 0x00 0x00 = 0 ∧ beU16 2 26 = 538 ∧ beU16 26 2 = 6658

/-- 41_frame_codec.md R131: the sum is the exact byte sum modulo 2^16; the empty sum is 0, a sum of 30 bytes
does not wrap, and the order of the bytes does not matter. -/
def Obligations.WrappingSumIsTheSumModulo65536 : Prop :=
  (∀ bs : List Byte, (wrappingSum bs).toNat = (bs.map BitVec.toNat).sum % 65536) ∧
  wrappingSum [] = 0 ∧
  (∀ bs : List Byte, bs.length = 30 → (wrappingSum bs).toNat = (bs.map BitVec.toNat).sum) ∧
  (∀ bs cs : List Byte, bs.Perm cs → wrappingSum bs = wrappingSum cs)

/-- 41_frame_codec.md R132: at a decision point the sum never wraps, and a frame that passes both checks has a checksum field from 66 to
7461; a frame with the right start byte and a field outside that range fails with INVALID_CHECKSUM. -/
def Obligations.ChecksumSumNeverWrapsAtADecision : Prop :=
  ∀ f : Frame,
    (frameSum f).toNat = ((f.toList.take 30).map BitVec.toNat).sum ∧
    (frameSum f).toNat ≤ 7650 ∧
    (f[0] = 0x42 → 66 ≤ (frameSum f).toNat ∧ (frameSum f).toNat ≤ 7461) ∧
    (∀ v, frameDecode f = .ok v → 66 ≤ (frameChecksum f).toNat ∧ (frameChecksum f).toNat ≤ 7461) ∧
    (f[0] = 0x42 → ((frameChecksum f).toNat < 66 ∨ 7461 < (frameChecksum f).toNat) →
      frameDecode f = .error .invalidChecksum)

/-- 41_frame_codec.md R138 and R136: `decode` succeeds exactly when the start byte is 0x42 and the checksum field is the sum; then each
field is `be_u16` of its two bytes, and the fifteenth value is the checksum. -/
def Obligations.DecodeSucceedsExactlyOnValidFrames : Prop :=
  ∀ f : Frame,
    ((∃ v, frameDecode f = .ok v) ↔ f[0] = 0x42 ∧ beU16 f[30] f[31] = wrappingSum (f.toList.take 30)) ∧
    (∀ v, frameDecode f = .ok v →
      (∀ k : Fin 14, v[k.val] = beU16 f[2 + 2 * k.val] f[3 + 2 * k.val]) ∧ v[14] = beU16 f[30] f[31])

/-- 41_frame_codec.md R134, R135, R139: a wrong start byte is reported whatever the checksum is, a wrong checksum only behind a right start
byte. -/
def Obligations.StartByteIsReportedBeforeChecksum : Prop :=
  ∀ f : Frame,
    (frameDecode f = .error .invalidStartByte ↔ f[0] ≠ 0x42) ∧
    (frameDecode f = .error .invalidChecksum ↔ f[0] = 0x42 ∧ beU16 f[30] f[31] ≠ wrappingSum (f.toList.take 30))

/-- 41_frame_codec.md R141 and R142: frames with the same start byte, the same checksum field and byte sums equal modulo 2^16 validate
identically, wherever the bytes stand, and the sums are then equal outright. -/
def Obligations.ValidityDependsOnTheSumAlone : Prop :=
  ∀ f g : Frame, f[0] = g[0] → frameChecksum f = frameChecksum g →
    ((f.toList.take 30).map BitVec.toNat).sum % 65536 = ((g.toList.take 30).map BitVec.toNat).sum % 65536 →
    ((f.toList.take 30).map BitVec.toNat).sum = ((g.toList.take 30).map BitVec.toNat).sum ∧
    ((∃ v, frameDecode f = .ok v) ↔ ∃ v, frameDecode g = .ok v) ∧
    (∀ e, frameDecode f = .error e ↔ frameDecode g = .error e)

/-- 41_frame_codec.md R143: an accumulator of at least 13 bits compared with the full checksum field gives the same result on every frame;
comparing only the low 13 bits of the field would accept a frame that `decode` rejects. -/
def Obligations.ThirteenBitAccumulatorIsEnough : Prop :=
  (∀ (w : Nat) (f : Frame), 13 ≤ w →
    (((f.toList.take 30).map BitVec.toNat).sum % 2 ^ w = (frameChecksum f).toNat ↔ frameChecksum f = frameSum f)) ∧
  (∃ f : Frame, f[0] = 0x42 ∧
    ((f.toList.take 30).map BitVec.toNat).sum % 2 ^ 13 = (frameChecksum f).toNat % 2 ^ 13 ∧
    frameDecode f = .error .invalidChecksum)

/-- 41_frame_codec.md R140: the marker byte is summed and never compared. Changing it alone turns a valid frame into INVALID_CHECKSUM, and
with a matching checksum field any marker byte is accepted. -/
def Obligations.MarkerByteIsSummedButNotChecked : Prop :=
  (∀ (f : Frame) (x : Byte), frameSum (f.set 1 x) + f[1].zeroExtend 16 = frameSum f + x.zeroExtend 16) ∧
  (∀ (f : Frame) (v : SensorFrame) (x : Byte), frameDecode f = .ok v → x ≠ f[1] →
    frameDecode (f.set 1 x) = .error .invalidChecksum) ∧
  (∀ (f : Frame) (x hi lo : Byte), f[0] = 0x42 → beU16 hi lo = frameSum (f.set 1 x) →
    ∃ v, frameDecode (((f.set 1 x).set 30 hi).set 31 lo) = .ok v)

/-- 30_encoding.md R89: whatever bytes 1 to 29 are, a frame with the right start byte and a matching checksum field is accepted, and its data
fields are passed on unchanged. -/
def Obligations.NoFieldValueIsChecked : Prop :=
  ∀ (f : Frame) (hi lo : Byte), f[0] = 0x42 → beU16 hi lo = wrappingSum (f.toList.take 30) →
    ∃ v, frameDecode ((f.set 30 hi).set 31 lo) = .ok v ∧
      (∀ k : Fin 14, v[k.val] = beU16 f[2 + 2 * k.val] f[3 + 2 * k.val]) ∧ v[14] = wrappingSum (f.toList.take 30)

/-! ### Ports and status -/

/-- 10_state.md R45: the fields of STATUS and RESYNC_COUNT, and their values after reset. -/
def Obligations.StatusFieldsShowTheState : Prop :=
  (∀ s : State,
    s.status.getLsbD 0 = s.outValid ∧
    s.status.getLsbD 1 = s.fault ∧
    (s.status.getLsbD 2 = true ↔ s.resyncCount ≠ 0) ∧
    s.status.extractLsb' 3 3 = s.lastResult.code ∧
    s.status.extractLsb' 6 6 = s.cnt ∧
    s.status.extractLsb' 12 4 = 0 ∧
    s.resyncCountPort = s.resyncCount) ∧
  State.reset.status = 0x0000 ∧ State.reset.resyncCountPort = 0

/-- 10_state.md R42: the phase is a function of `fault`, `out_valid` and `cnt`. -/
def Obligations.PhaseIsAFunctionOfTheState : Prop :=
  ∀ s : State,
    (s.phase = .faulted ↔ s.fault = true) ∧
    (s.phase = .output ↔ s.fault = false ∧ s.outValid = true) ∧
    (s.phase = .full ↔ s.fault = false ∧ s.outValid = false ∧ s.cnt = 32) ∧
    (s.cnt.toNat ≤ 32 → (s.phase = .filling ↔ s.fault = false ∧ s.outValid = false ∧ s.cnt.toNat < 32))

/-- 10_state.md R44, 30_encoding.md R84: the ready output, which is 1 exactly in phase FILLING, and the output frame bus, which has
a value exactly while a frame is pending. -/
def Obligations.PortsAreFunctionsOfTheState : Prop :=
  (∀ s : State, s.inReady = true ↔ s.fault = false ∧ s.outValid = false ∧ s.cnt.toNat < 32) ∧
  (∀ s : State, s.cnt.toNat ≤ 32 → (s.inReady = true ↔ s.phase = .filling)) ∧
  (∀ s : State, s.outValidPort = s.outValid) ∧
  (∀ s : State, s.outValid = false → s.outFramePort = none) ∧
  (∀ s : State, s.outValid = true → ∃ bus, s.outFramePort = some bus ∧
    ∀ k : Fin 15, bus.extractLsb' (16 * k.val) 16 = s.O[k.val])

/-! ### The operations: encoding, completion, result, frame -/

/-- 70_reset_and_hazards.md R230: RESET, from every state and in every phase, begins a new session; nothing is consumed, delivered or
reported. The bits of `O`, which has no value afterwards, are not spoken of. -/
def Obligations.ResetBeginsANewSession : Prop :=
  (∀ s : State, selVector s.nextInput s &&& 0x40 = 0x40 → selectedOp s = some .reset) ∧
  (∀ s : State, ∃ t, exec .reset s = .next t ∧
    t.cnt = 0 ∧ (∀ a, t.W.read a = none) ∧ (∀ a, t.cell a = none) ∧ t.outValid = false ∧ t.readO = none ∧ t.fault = false ∧
    t.resyncCount = 0 ∧ t.lastResult = .none ∧ t.status = 0x0000 ∧ t.phase = .filling ∧
    t.out = s.out ∧ t.inputs = s.inputs ∧ t.freeIndex = s.freeIndex) ∧
  (∀ s : State, s.nextInput.rst = true → ∃ t, step s = .next t ∧ t.sessionStart ∧
    t.out.consumed = false ∧ t.out.delivered = none ∧ t.out.evt = none)

/-- 10_state.md R47: the state after reset. The bits of `O`, for which the rule gives no value, are not spoken of. -/
def Obligations.StateAfterResetHasItsValues : Prop :=
  State.reset.cnt = 0 ∧ (∀ a, State.reset.cell a = none) ∧ State.reset.outValid = false ∧ State.reset.readO = none ∧
  State.reset.fault = false ∧ State.reset.resyncCount = 0 ∧ State.reset.lastResult = .none ∧
  State.reset.phase = .filling ∧ State.reset.resyncing = false

/-- 42_reader_loop.md R161 and 40_byte_window.md R110: FILL pushes the input byte. The one cell written is `W[cnt]`; from `cnt = 31` the next
step without reset is a decision point whatever the inputs. -/
def Obligations.FillPushesTheInputByte : Prop :=
  (∀ s : State, selVector s.nextInput s &&& 0x7E = 0x02 → selectedOp s = some (.fill s.nextInput.inByte)) ∧
  (∀ (b : Byte) (s : State), s.cnt.toNat < 32 → ∃ t, exec (.fill b) s = .next t ∧
    t.cnt.toNat = s.cnt.toNat + 1 ∧
    (∀ a, t.W.read a = if a = s.cnt.toNat then some b else s.W.read a) ∧
    (∀ a, t.cell a = if a = s.cnt.toNat then some b else s.cell a) ∧
    t.outValid = s.outValid ∧ t.O = s.O ∧ t.fault = s.fault ∧ t.resyncCount = s.resyncCount ∧ t.lastResult = s.lastResult ∧
    t.out = { s.out with consumed := true } ∧ t.inputs = s.inputs ∧ t.freeIndex = s.freeIndex) ∧
  (∀ (b : Byte) (s t : State) (i : Input), s.windowFilled → s.phase = .filling → s.cnt = 31 → exec (.fill b) s = .next t →
    i.rst = false → ∃ f, snapshot t = .ok f ∧ selectedOp (t.withInput i) = some (classifyFrame f))

/-- 42_reader_loop.md R162, R167, R169: IDLE, OUT_WAIT and FAULT_HOLD change no state; nothing is consumed, delivered or reported, and the
block is not ready for input while it waits for its consumer or is faulted. Without reset a faulted session stays faulted. -/
def Obligations.WaitingOperationsChangeNothing : Prop :=
  (∀ s : State, selVector s.nextInput s &&& 0x7E = 0x00 → selectedOp s = some .idle) ∧
  (∀ s : State, selVector s.nextInput s &&& 0x71 = 0x10 → selectedOp s = some .outWait) ∧
  (∀ s : State, selVector s.nextInput s &&& 0x60 = 0x20 → selectedOp s = some .faultHold) ∧
  (∀ s : State, exec .idle s = .next s ∧ exec .outWait s = .next s ∧ exec .faultHold s = .next s) ∧
  (∀ s : State, selectedOp s = some .idle ∨ selectedOp s = some .outWait ∨ selectedOp s = some .faultHold →
    ∃ t, step s = .next t ∧ t.sameBlock s ∧ t.out = { inReady := s.inReady, consumed := false, delivered := none, evt := none }) ∧
  (∀ s : State, selectedOp s = some .outWait ∨ selectedOp s = some .faultHold → s.inReady = false) ∧
  (∀ s : State, s.fault = true → s.nextInput.rst = false → selectedOp s = some .faultHold)

/-- 42_reader_loop.md R163 and 40_byte_window.md R112: DEC_OK emits the frame and clears the window. The frame is not delivered in this
step. -/
def Obligations.DecOkEmitsTheFrame : Prop :=
  (∀ (s : State) (f : Frame), selVector s.nextInput s &&& 0x78 = 0x08 → snapshot s = .ok f →
    f[0] = 0x42 → frameChecksum f = wrappingSum (f.toList.take 30) → selectedOp s = some (.decOk f)) ∧
  (∀ (f : Frame) (s : State), ∃ t, exec (.decOk f) s = .next t ∧
    t.outValid = true ∧ t.readO = some t.O ∧
    (∀ k : Fin 15, t.O[k.val] = beU16 f[2 + 2 * k.val] f[3 + 2 * k.val]) ∧
    (∀ v, frameDecode f = .ok v → t.O = v) ∧
    t.cnt = 0 ∧ (∀ a, t.W.read a = none) ∧ (∀ a, t.cell a = none) ∧
    t.resyncCount = 0 ∧ t.resyncing = false ∧ t.lastResult = .ok ∧ t.fault = s.fault ∧
    t.out = { s.out with evt := some .ok } ∧ t.inputs = s.inputs ∧ t.freeIndex = s.freeIndex)

/-- 42_reader_loop.md R164 and R165, 40_byte_window.md R111, 10_state.md R37: a failed decode slides the window by one byte, counts the
failure and reports its code. Every cell takes the next one's byte, and the last one held holds none. -/
def Obligations.FailedDecodeSlidesTheWindow : Prop :=
  (∀ (s : State) (f : Frame), selVector s.nextInput s &&& 0x78 = 0x08 → snapshot s = .ok f →
    f[0] ≠ 0x42 → selectedOp s = some (.decBadStart f)) ∧
  (∀ (s : State) (f : Frame), selVector s.nextInput s &&& 0x78 = 0x08 → snapshot s = .ok f →
    f[0] = 0x42 → frameChecksum f ≠ wrappingSum (f.toList.take 30) → selectedOp s = some (.decBadChecksum f)) ∧
  (∀ (f : Frame) (s : State) (i : Instr) (c : ResultCode),
    (i = .decBadStart f ∧ c = .invalidStartByte) ∨ (i = .decBadChecksum f ∧ c = .invalidChecksum) →
    (s.cell 0).isSome = true → ∃ t, exec i s = .next t ∧
      t.cnt.toNat + 1 = s.cnt.toNat ∧
      (∀ a, t.W.read a = s.W.read (a + 1)) ∧ (∀ a, t.cell a = s.cell (a + 1)) ∧
      (s.cnt = 32 → t.cnt = 31 ∧ t.cell 31 = none) ∧
      t.resyncCount.toNat = min (s.resyncCount.toNat + 1) (2 ^ 32 - 1) ∧ t.resyncing = true ∧ t.lastResult = c ∧
      t.outValid = s.outValid ∧ t.O = s.O ∧ t.fault = s.fault ∧
      t.out = { s.out with evt := some c } ∧ t.inputs = s.inputs ∧ t.freeIndex = s.freeIndex)

/-- 42_reader_loop.md R166: OUT_ACCEPT delivers the pending frame. `O` has no value from then on, so nothing is said of its bits. -/
def Obligations.OutAcceptDeliversTheFrame : Prop :=
  (∀ s : State, selVector s.nextInput s &&& 0x71 = 0x11 → selectedOp s = some .outAccept) ∧
  (∀ s : State, s.outValid = true → ∃ t, exec .outAccept s = .next t ∧
    t.out = { s.out with delivered := some s.O } ∧ t.outValid = false ∧ t.readO = none ∧ t.outFramePort = none ∧
    t.cnt = s.cnt ∧ (∀ a, t.W.read a = s.W.read a) ∧ (∀ a, t.cell a = s.cell a) ∧
    t.fault = s.fault ∧ t.resyncCount = s.resyncCount ∧ t.lastResult = s.lastResult ∧
    t.inputs = s.inputs ∧ t.freeIndex = s.freeIndex) ∧
  (∀ s : State, selectedOp s = some .outAccept → s.inReady = false)

/-- 42_reader_loop.md R168 and 60_exceptions.md R202: SOURCE_ERROR raises SourceError: the block is faulted, the code and the event are 4, no
byte is consumed, and `W`, `cnt`, `O` and `resync_count` are not written. No other operation raises an exception. -/
def Obligations.SourceErrorEndsTheSession : Prop :=
  (∀ s : State, selVector s.nextInput s &&& 0x7C = 0x04 → selectedOp s = some .sourceError) ∧
  (∀ s : State, selectedOp s = some .sourceError ↔
    s.fault = false ∧ s.outValid = false ∧ s.cnt ≠ 32 ∧ s.nextInput.rst = false ∧ s.nextInput.inError = true) ∧
  (∀ s : State, ∃ t, exec .sourceError s = .next t ∧
    t.fault = true ∧ t.phase = .faulted ∧ t.lastResult = .sourceError ∧ t.lastResult.code = 4 ∧
    t.out = { s.out with evt := some .sourceError } ∧
    t.cnt = s.cnt ∧ (∀ a, t.W.read a = s.W.read a) ∧ (∀ a, t.cell a = s.cell a) ∧
    t.O = s.O ∧ t.outValid = s.outValid ∧ t.resyncCount = s.resyncCount ∧
    t.inputs = s.inputs ∧ t.freeIndex = s.freeIndex) ∧
  (∀ (i : Instr) (s t : State), i ≠ .sourceError → exec i s = .next t → t.fault = true → s.fault = true)

/-- Where FILL, a failed decode and OUT_ACCEPT stop when they are applied to an arbitrary state: where there is no cell to push to, no byte to
pop, no frame to deliver. That they stop there, and that a failed decode runs on 1 to 31 bytes too, is the model's choice (logs 5, 6, 7). -/
def Obligations.OperationsStopWhereNoCellByteOrFrameIs : Prop :=
  (∀ (b : Byte) (s : State), exec (.fill b) s = .fault .noSuchCell ↔ 32 ≤ s.cnt.toNat) ∧
  (∀ (f : Frame) (s : State), exec (.decBadStart f) s = .fault .cellHoldsNoValue ↔ s.cell 0 = none) ∧
  (∀ (f : Frame) (s : State), exec (.decBadChecksum f) s = .fault .cellHoldsNoValue ↔ s.cell 0 = none) ∧
  (∀ s : State, exec .outAccept s = .refused .frameHoldsNoValue ↔ s.outValid = false)

/-- 20_memory.md R63, 40_byte_window.md R113: 16-bit reads are big-endian, a snapshot is the 32 cells, and the fields of a decision
are the 16-bit reads at the even indices 2 to 30 of the same window. -/
def Obligations.WindowReadsAreBigEndianAndAgree : Prop :=
  (∀ (s : State) (i : Nat) (hi lo : Byte), s.cell i = some hi → s.cell (i + 1) = some lo →
    ∃ v : Half, s.memRead16 i = some v ∧ v.toNat = hi.toNat * 256 + lo.toNat) ∧
  (∀ (s : State) (f : Frame), snapshot s = .ok f ↔ ∀ i : Fin 32, s.cell i.val = some f[i]) ∧
  (∀ (s : State) (f : Frame), snapshot s = .ok f →
    ∀ k : Fin 15, s.memRead16 (2 + 2 * k.val) = some (extractFields f)[k.val])

/-! ### The step -/

/-- 42_reader_loop.md R160: a step applies the operation its bytes decode to, to the same block with the output record begun from the state
before the step. Its input record is the oldest one listed; when none is, it is the free one the counter names (log 2). -/
def Obligations.StepAppliesTheDecodedOperation : Prop :=
  ∀ (s : State) (bs : List Byte) (i : Instr) (rest : List Byte),
    fetchOp s.nextInput s = .ok bs → decode bs = .ok (i, rest) →
    step s = exec i s.beginStep ∧ s.beginStep.sameBlock s ∧
    s.beginStep.out = { inReady := s.inReady, consumed := false, delivered := none, evt := none } ∧
    (∀ r rs, s.inputs = r :: rs → s.nextInput = r ∧ s.beginStep.inputs = rs ∧ s.beginStep.freeIndex = s.freeIndex) ∧
    (s.inputs = [] →
      s.nextInput = Config.envInput s.freeIndex ∧ s.beginStep.inputs = [] ∧ s.beginStep.freeIndex = s.freeIndex + 1)

/-- 30_encoding.md R85 and R86: the bits of the selection vector, and for each row its match and mask: exactly one row matches. -/
def Obligations.SelectionRowsAreTheMaskedPatterns : Prop :=
  (∀ (s : State) (i : Input),
    (selVector i s).getLsbD 6 = i.rst ∧ (selVector i s).getLsbD 5 = s.fault ∧ (selVector i s).getLsbD 4 = s.outValid ∧
    ((selVector i s).getLsbD 3 = true ↔ s.cnt = 32) ∧ (selVector i s).getLsbD 2 = i.inError ∧
    (selVector i s).getLsbD 1 = i.inValid ∧ (selVector i s).getLsbD 0 = i.outReady) ∧
  (∀ sel : Sel,
    (selectRow sel = some .reset ↔ sel &&& 0x40 = 0x40) ∧
    (selectRow sel = some .faultHold ↔ sel &&& 0x60 = 0x20) ∧
    (selectRow sel = some .outAccept ↔ sel &&& 0x71 = 0x11) ∧
    (selectRow sel = some .outWait ↔ sel &&& 0x71 = 0x10) ∧
    (selectRow sel = some .decisionPoint ↔ sel &&& 0x78 = 0x08) ∧
    (selectRow sel = some .sourceError ↔ sel &&& 0x7C = 0x04) ∧
    (selectRow sel = some .fill ↔ sel &&& 0x7E = 0x02) ∧
    (selectRow sel = some .idle ↔ sel &&& 0x7E = 0x00))

/-- 60_exceptions.md R207: the operation of a step in the fixed priority order reset, faulted session, pending
output, full window, source error, offered byte, idle. -/
def Obligations.SelectionFollowsThePriorityOrder : Prop :=
  ∀ (s : State) (i : Input),
    selectedOp (s.withInput i) =
      if i.rst then some .reset
      else if s.fault then some .faultHold
      else if s.outValid then (if i.outReady then some .outAccept else some .outWait)
      else if s.cnt = 32 then
        (match snapshot s with
          | .ok f =>
            if f[0] ≠ 0x42 then some (.decBadStart f)
            else if frameChecksum f ≠ wrappingSum (f.toList.take 30) then some (.decBadChecksum f)
            else some (.decOk f)
          | .error _ => none)
      else if i.inError then some .sourceError
      else if i.inValid then some (.fill i.inByte)
      else some .idle

/-- 60_exceptions.md R204, 42_reader_loop.md R160: the output record of every step. A code is reported exactly in the decision points and in
SOURCE_ERROR, a byte is consumed exactly in FILL and only when the block was ready, a frame is delivered exactly in OUT_ACCEPT. -/
def Obligations.OutputRecordOfEveryStep : Prop :=
  ∀ (s t : State) (i : Instr), selectedOp s = some i → step s = .next t →
    t.out.inReady = s.inReady ∧
    (t.out.consumed = true ↔ ∃ b, i = .fill b) ∧
    (t.out.consumed = true → s.inReady = true) ∧
    (∀ v, t.out.delivered = some v ↔ i = .outAccept ∧ v = s.O) ∧
    (t.evtCode = some 1 ↔ ∃ f, i = .decOk f) ∧
    (t.evtCode = some 2 ↔ ∃ f, i = .decBadStart f) ∧
    (t.evtCode = some 3 ↔ ∃ f, i = .decBadChecksum f) ∧
    (t.evtCode = some 4 ↔ i = .sourceError) ∧
    (t.evtValid = true ↔ (∃ f, i = .decOk f ∨ i = .decBadStart f ∨ i = .decBadChecksum f) ∨ i = .sourceError)

/-- Which inputs a step samples, phase by phase (60_exceptions.md R202, and the corner cases of 42_reader_loop.md R161 to R169): two input
records that agree on those give the same outcome. -/
def Obligations.StepSamplesOnlyTheInputsOfItsPhase : Prop :=
  ∀ (s : State) (i j : Input), i.rst = j.rst →
    (i.rst = true → step (s.withInput i) = step (s.withInput j)) ∧
    (s.phase = .faulted → step (s.withInput i) = step (s.withInput j)) ∧
    (s.phase = .full → step (s.withInput i) = step (s.withInput j)) ∧
    (s.phase = .output → i.outReady = j.outReady → step (s.withInput i) = step (s.withInput j)) ∧
    (s.phase = .filling → i.inError = true → j.inError = true → step (s.withInput i) = step (s.withInput j)) ∧
    (s.phase = .filling → i.inError = j.inError → i.inValid = j.inValid → i.inByte = j.inByte →
      step (s.withInput i) = step (s.withInput j))

/-- From every state that meets the invariant a step answers a next state, whatever the inputs: no operation stops the block
(60_exceptions.md R203, 30_encoding.md R88). -/
def Obligations.NoStepStopsUnderTheInvariant : Prop := ∀ s : State, s.Inv → ∃ t, step s = .next t

/-! ### Invariants -/

/-- The state after reset meets both invariants. -/
def Obligations.StateAfterResetMeetsTheInvariants : Prop := State.reset.Inv ∧ State.reset.resultInv

/-- 10_state.md R40: every step keeps the invariants (a) to (d) and the window filled up to `cnt`; a RESET step establishes them from any
state, so they hold in every state reachable from one. -/
def Obligations.StepKeepsTheBlockInvariant : Prop :=
  (∀ s t : State, s.Inv → step s = .next t → t.Inv) ∧
  (∀ s t : State, selectedOp s = some .reset → step s = .next t → t.Inv) ∧
  (∀ (s r t : State) (h : List Event), selectedOp s = some .reset → step s = .next r → Run r h t →
    t.cnt.toNat ≤ 32 ∧ (t.outValid = true → t.cnt = 0) ∧ (t.fault = true → t.outValid = false) ∧
    (t.outValid = true → t.resyncCount = 0))

/-- Every step keeps what the latest result code says of the state (10_state.md R36, R37, R39). -/
def Obligations.StepKeepsTheResultInvariant : Prop :=
  ∀ s t : State, s.resultInv → step s = .next t → t.resultInv

/-- Under the invariant the cells that hold a value are exactly those below `cnt` (10_state.md R31), and neither a fault and a pending frame nor a
pending frame and a full window coincide (30_encoding.md R90). The window list is then in canonical form, which is the model's choice of form
(log 5). -/
def Obligations.InvariantGivesACanonicalWindow : Prop :=
  ∀ s : State, s.Inv →
    s.W.wf = true ∧ (∀ a, (s.W.read a).isSome = true ↔ a < s.cnt.toNat) ∧ (∀ a, s.cell a = s.W.read a) ∧
    ¬(s.fault = true ∧ s.outValid = true) ∧ ¬(s.outValid = true ∧ s.cnt = 32)

/-! ### What each field follows -/

/-- 10_state.md R36: `fault` is set only by SOURCE_ERROR and cleared only by RESET; while it is set only FAULT_HOLD and RESET are taken. -/
def Obligations.FaultIsStickyUntilReset : Prop :=
  ∀ (s t : State) (i : Instr), selectedOp s = some i → step s = .next t →
    (i = .sourceError → t.fault = true) ∧ (i = .reset → t.fault = false) ∧
    (i ≠ .sourceError → i ≠ .reset → t.fault = s.fault) ∧
    (s.fault = true → i = .faultHold ∨ i = .reset)

/-- 10_state.md R34: `out_valid` is set only by DEC_OK and cleared only by OUT_ACCEPT and RESET; while it is 1, `O` is the decoded frame. -/
def Obligations.OutValidIsSetAndClearedByItsOperations : Prop :=
  ∀ (s t : State) (i : Instr), selectedOp s = some i → step s = .next t →
    (∀ f, i = .decOk f → t.outValid = true ∧ frameDecode f = .ok t.O) ∧
    (i = .outAccept ∨ i = .reset → t.outValid = false) ∧
    ((∀ f, i ≠ .decOk f) → i ≠ .outAccept → i ≠ .reset → t.outValid = s.outValid ∧ t.O = s.O)

/-- 10_state.md R37: `resync_count` counts the failed decodes, saturating, from the later of the last reset and the last success,
and nothing else depends on it. -/
def Obligations.ResyncCountCountsFailedDecodes : Prop :=
  (∀ (s t : State) (i : Instr), selectedOp s = some i → step s = .next t →
    (∀ f, i = .decBadStart f ∨ i = .decBadChecksum f →
      t.resyncCount.toNat = min (s.resyncCount.toNat + 1) (2 ^ 32 - 1)) ∧
    (∀ f, i = .decOk f → t.resyncCount = 0) ∧
    (i = .reset → t.resyncCount = 0) ∧
    ((∀ f, i ≠ .decOk f ∧ i ≠ .decBadStart f ∧ i ≠ .decBadChecksum f) → i ≠ .reset → t.resyncCount = s.resyncCount)) ∧
  (∀ (s t : State) (n : BitVec 32), step s = .next t →
    ∃ u, step (s.setResyncCount n) = .next u ∧ u.setResyncCount 0 = t.setResyncCount 0)

/-- 10_state.md R39: `last_result` is the code of the latest decision point or source error of the session; codes 5 to 7 never stand in
it. -/
def Obligations.LastResultHoldsTheLatestCode : Prop :=
  (∀ (s t : State) (i : Instr), selectedOp s = some i → step s = .next t →
    (∀ f, i = .decOk f → t.lastResult.code = 1) ∧
    (∀ f, i = .decBadStart f → t.lastResult.code = 2) ∧
    (∀ f, i = .decBadChecksum f → t.lastResult.code = 3) ∧
    (i = .sourceError → t.lastResult.code = 4) ∧
    (i = .reset → t.lastResult.code = 0) ∧
    ((∀ f, i ≠ .decOk f ∧ i ≠ .decBadStart f ∧ i ≠ .decBadChecksum f) → i ≠ .sourceError → i ≠ .reset →
      t.lastResult = s.lastResult)) ∧
  (∀ c : ResultCode, c.code.toNat ≤ 4)

/-- 42_reader_loop.md R170: the phase transitions. -/
def Obligations.PhaseTransitionsAreTheTable : Prop :=
  ∀ (s t : State) (i : Instr), s.Inv → selectedOp s = some i → step s = .next t →
    (i = .reset → t.phase = .filling ∧ t.cnt = 0 ∧ t.resyncing = false) ∧
    (∀ b, i = .fill b → s.phase = .filling ∧
      (s.cnt.toNat < 31 → t.phase = .filling) ∧ (s.cnt = 31 → t.phase = .full)) ∧
    (i = .idle → s.phase = .filling ∧ t.phase = .filling) ∧
    (i = .sourceError → s.phase = .filling ∧ t.phase = .faulted) ∧
    (∀ f, i = .decOk f → s.phase = .full ∧ t.phase = .output ∧ t.cnt = 0 ∧ t.resyncing = false) ∧
    (∀ f, i = .decBadStart f ∨ i = .decBadChecksum f →
      s.phase = .full ∧ t.phase = .filling ∧ t.cnt = 31 ∧ t.resyncing = true) ∧
    (i = .outAccept → s.phase = .output ∧ t.phase = .filling ∧ t.cnt = 0) ∧
    (i = .outWait → s.phase = .output ∧ t.phase = .output) ∧
    (i = .faultHold → s.phase = .faulted ∧ t.phase = .faulted)

/-- 42_reader_loop.md R180: a full window is decided, a ready consumer is served, an offered byte is consumed, in the next step without
reset. -/
def Obligations.EachPhaseMakesProgress : Prop :=
  ∀ (s : State) (i : Input), s.Inv → i.rst = false →
    (s.phase = .full → ∃ (f : Frame) (t : State), selectedOp (s.withInput i) = some (classifyFrame f) ∧ snapshot s = .ok f ∧
      step (s.withInput i) = .next t ∧ t.evtValid = true) ∧
    (s.phase = .output → i.outReady = true → ∃ t, step (s.withInput i) = .next t ∧ t.out.delivered = some s.O) ∧
    (s.phase = .filling → i.inValid = true → i.inError = false → ∃ t, step (s.withInput i) = .next t ∧
      t.out.consumed = true ∧ t.cell s.cnt.toNat = some i.inByte)

/-! ### Runs and streams -/

/-- 40_byte_window.md R117: in every state of a run from the start of a session the window is the last `cnt` bytes consumed since the later of
the last RESET and the last DEC_OK, in arrival order. -/
def Obligations.WindowIsTheLastBytesConsumed : Prop :=
  ∀ (r t : State) (h : List Event), r.sessionStart → Run r h t →
    t.cnt.toNat ≤ (bytesSinceFresh h).length ∧
    ∀ a, t.cell a = ((bytesSinceFresh h).drop ((bytesSinceFresh h).length - t.cnt.toNat))[a]?

/-- 42_reader_loop.md R174: in one session without a source error the decisions taken, with their positions, results and frames, are an
initial part of the scan of the bytes consumed, and all of it in phase FILLING, where the window is what the scan leaves; the delivered
frames are those of the OK decisions in order, but for a pending one. -/
def Obligations.DecisionsFollowTheScanOfTheStream : Prop :=
  ∀ (r t : State) (h : List Event), r.sessionStart → Run r h t → oneSession h →
    decisions h <+: (scan (consumedBytes h)).1 ∧
    (t.phase = .filling → decisions h = (scan (consumedBytes h)).1 ∧ ∀ a, t.cell a = (scan (consumedBytes h)).2[a]?) ∧
    deliveredFrames h <+: okFrames (decisions h) ∧
    (t.outValid = false → deliveredFrames h = okFrames (decisions h)) ∧
    (t.outValid = true → okFrames (decisions h) = deliveredFrames h ++ [t.O])

/-- 42_reader_loop.md R172 and R173: after a successful decision every later window of the session starts past its 32 bytes; after a failed
one the next window is one byte further on. The window of a decision at position `p` is the bytes `p` to `p + 31` consumed. -/
def Obligations.WindowsStartAfreshOrSlideByOne : Prop :=
  ∀ (r t : State) (h : List Event), r.sessionStart → Run r h t → oneSession h →
    (∀ d ∈ decisions h, d.window.toList = ((consumedBytes h).drop d.pos).take 32) ∧
    (∀ (d e : Decision) (ds es fs : List Decision) (v : SensorFrame), decisions h = ds ++ d :: es ++ e :: fs →
      d.result = .ok v → d.pos + 32 ≤ e.pos) ∧
    (∀ (d e : Decision) (ds fs : List Decision) (err : FrameDecodeError), decisions h = ds ++ d :: e :: fs →
      d.result = .error err → e.pos = d.pos + 1)

/-- 42_reader_loop.md R177: a window at `j` that decodes and overlaps the start `k` of a later frame is emitted instead of it: no decision of
the session stands at `k`, and the decisions after it stand at or after `j + 32`. -/
def Obligations.FalseSyncSkipsTheOverlappingFrame : Prop :=
  ∀ (r t : State) (h : List Event) (d : Decision) (ds es : List Decision) (v : SensorFrame) (k : Nat),
    r.sessionStart → Run r h t → oneSession h → decisions h = ds ++ d :: es → d.result = .ok v →
    d.pos < k → k < d.pos + 32 →
    v ∈ okFrames (decisions h) ∧ (∀ e ∈ decisions h, e.pos ≠ k) ∧ (∀ e ∈ es, k < e.pos ∧ d.pos + 32 ≤ e.pos)

/-- 42_reader_loop.md R175: the emitted frames are the decodes of disjoint contiguous stretches of the stream, in stream order. -/
def Obligations.EmittedFramesAreOrderedAndDisjoint : Prop :=
  ∀ (r t : State) (h : List Event), r.sessionStart → Run r h t → oneSession h →
    (∀ d ∈ decisions h, decodeAt (consumedBytes h) d.pos = some d.result) ∧
    ((decisions h).filter (fun d => match d.result with | .ok _ => true | .error _ => false)).Pairwise
      (fun d e => d.pos + 32 ≤ e.pos) ∧
    deliveredFrames h <+: okFrames (decisions h)

/-- 42_reader_loop.md R176: after `k` garbage bytes in which no window validates, the first DEC_OK emits the frame behind them, after exactly
`k` failed decisions and exactly `k + 32` bytes. (The count shows `k` up to its saturation, 10_state.md R37.) -/
def Obligations.ResynchronisesAfterGarbage : Prop :=
  ∀ (r t : State) (h : List Event) (g rest : List Byte) (f f' : Frame) (v : SensorFrame),
    r.sessionStart → Run r h t → oneSession h → (∀ e ∈ h, e.isOk = false) → selectedOp t = some (.decOk f') →
    consumedBytes h <+: g ++ f.toList ++ rest → frameDecode f = .ok v →
    (∀ j, j < g.length → ∃ e, decodeAt (g ++ f.toList ++ rest) j = some (.error e)) →
    extractFields f' = v ∧ f' = f ∧ h.countP Event.isFail = g.length ∧ (consumedBytes h).length = g.length + 32 ∧
    t.resyncCount.toNat = min g.length (2 ^ 32 - 1)

/-- 42_reader_loop.md R179: byte accounting. -/
def Obligations.BytesConsumedAreAccountedFor : Prop :=
  ∀ (r t : State) (h : List Event), r.sessionStart → Run r h t → oneSession h →
    (consumedBytes h).length = 32 * h.countP Event.isOk + h.countP Event.isFail + t.cnt.toNat

/-- Two sessions without reset or source error that consume the same bytes take the same decisions, report the same codes and deliver the
same frames, whatever their idle and waiting steps, once both wait for input (42_reader_loop.md R178, which this restricts to one session:
log 19). -/
def Obligations.ResultsDoNotDependOnTiming : Prop :=
  ∀ (r r' t t' : State) (h h' : List Event), r.sessionStart → r'.sessionStart → Run r h t → Run r' h' t' →
    oneSession h → oneSession h' → t.phase = .filling → t'.phase = .filling → consumedBytes h = consumedBytes h' →
    decisions h = decisions h' ∧ h.filterMap (·.out.evt) = h'.filterMap (·.out.evt) ∧
    deliveredFrames h = deliveredFrames h'

/-- 42_reader_loop.md R181: no decision changes `fault`, and a session without a source error is never faulted or stopped, however many
decodes fail. -/
def Obligations.FailedDecodesAreNeverFatal : Prop :=
  (∀ (f : Frame) (i : Instr) (s t : State), i = .decOk f ∨ i = .decBadStart f ∨ i = .decBadChecksum f →
    exec i s = .next t → t.fault = s.fault) ∧
  (∀ (r t : State) (h : List Event), r.sessionStart → Run r h t → (∀ e ∈ h, e.op ≠ .sourceError) →
    t.fault = false ∧ ∃ u, step t = .next u)

/-- 60_exceptions.md R205: only successfully decoded frames reach the output port: a pending or delivered frame is the decode of a window that
a DEC_OK step of the run decided on. -/
def Obligations.OnlyDecodedFramesReachTheOutput : Prop :=
  ∀ (r t : State) (h : List Event), r.sessionStart → Run r h t →
    (∀ v ∈ deliveredFrames h, ∃ (f : Frame) (e : Event), e ∈ h ∧ e.op = .decOk f ∧ frameDecode f = .ok v) ∧
    (∀ v, t.readO = some v → ∃ (f : Frame) (e : Event), e ∈ h ∧ e.op = .decOk f ∧ frameDecode f = .ok v)

/-- 30_encoding.md R93: a byte offered to a block that is not faulted is consumed within three steps, a faulted block stops the FEED at once,
and SETTLE ends within three steps. -/
def Obligations.FeedAndSettleEndWithinThreeSteps : Prop :=
  ∀ (s : State) (b : Byte), s.Inv →
    (s.fault = false → ∃ t, feedByte b 3 s = .consumed t ∧ t.cnt ≠ 0) ∧
    (s.fault = true → ∃ t, feedByte b 1 s = .faulted t ∧ t.sameBlock s) ∧
    (∃ t, settle 3 s = some t ∧ (t.phase = .filling ∨ t.phase = .faulted))

/-! ### The step lemmas behind the claims about runs -/

/-- At the start of a session, with no step recorded, each of the three relations between a state and the steps that led to it holds. -/
def Obligations.SessionStartMeetsTheStreamInvariants : Prop :=
  ∀ r : State, r.sessionStart → r.holdsLast (bytesSinceFresh []) ∧ followsScan [] r ∧ huntsFirstFrame [] r

/-- Every step keeps the window at the last `cnt` bytes consumed since the later of the last RESET and the last DEC_OK, from every state and
every record of steps that agree on it (the step behind 40_byte_window.md R117). -/
def Obligations.StepKeepsTheWindowAtTheLastBytes : Prop :=
  ∀ (h : List Event) (t u : State) (i : Instr), t.holdsLast (bytesSinceFresh h) → selectedOp t = some i → step t = .next u →
    u.holdsLast (bytesSinceFresh (h ++ [⟨i, u.out⟩]))

/-- Every step but RESET keeps the decisions and the window on the scan of the bytes consumed, and the delivered frames on its OK entries, from
every state and every record of steps that agree on it (the step behind 42_reader_loop.md R174). -/
def Obligations.StepKeepsTheDecisionsOnTheScan : Prop :=
  ∀ (h : List Event) (t u : State) (i : Instr), followsScan h t → selectedOp t = some i → i ≠ .reset → step t = .next u →
    followsScan (h ++ [⟨i, u.out⟩]) u

/-- Before the first DEC_OK every step but RESET keeps the count of failed decisions at the number of windows passed over, each of which failed,
from every state and every record of steps that agree on it (the step behind 42_reader_loop.md R176, with the saturation of 10_state.md R37). -/
def Obligations.StepKeepsTheHuntForTheFirstFrame : Prop :=
  ∀ (h : List Event) (t u : State) (i : Instr), huntsFirstFrame h t → selectedOp t = some i → i ≠ .reset → (∀ f, i ≠ .decOk f) →
    step t = .next u → huntsFirstFrame (h ++ [⟨i, u.out⟩]) u
end

