-- ==== Sys2Proof/Laws/State.lean ====
section
/-! SUPPORT. One lemma for each field of the state under each named update, so that no later proof unfolds a record update. -/

namespace Sys2Proof.Machine

/-! `setWindow` -/

@[simp] theorem State.setWindow_W (s : State) (m : Memory) (n : BitVec 6) : (s.setWindow m n).W = m := rfl
@[simp] theorem State.setWindow_cnt (s : State) (m : Memory) (n : BitVec 6) : (s.setWindow m n).cnt = n := rfl
@[simp] theorem State.setWindow_outValid (s : State) (m : Memory) (n : BitVec 6) : (s.setWindow m n).outValid = s.outValid := rfl
@[simp] theorem State.setWindow_O (s : State) (m : Memory) (n : BitVec 6) : (s.setWindow m n).O = s.O := rfl
@[simp] theorem State.setWindow_fault (s : State) (m : Memory) (n : BitVec 6) : (s.setWindow m n).fault = s.fault := rfl
@[simp] theorem State.setWindow_resyncCount (s : State) (m : Memory) (n : BitVec 6) : (s.setWindow m n).resyncCount = s.resyncCount := rfl
@[simp] theorem State.setWindow_lastResult (s : State) (m : Memory) (n : BitVec 6) : (s.setWindow m n).lastResult = s.lastResult := rfl
@[simp] theorem State.setWindow_inputs (s : State) (m : Memory) (n : BitVec 6) : (s.setWindow m n).inputs = s.inputs := rfl
@[simp] theorem State.setWindow_freeIndex (s : State) (m : Memory) (n : BitVec 6) : (s.setWindow m n).freeIndex = s.freeIndex := rfl
@[simp] theorem State.setWindow_out (s : State) (m : Memory) (n : BitVec 6) : (s.setWindow m n).out = s.out := rfl

/-! `setOutValid` -/

@[simp] theorem State.setOutValid_W (s : State) (v : Bool) : (s.setOutValid v).W = s.W := rfl
@[simp] theorem State.setOutValid_cnt (s : State) (v : Bool) : (s.setOutValid v).cnt = s.cnt := rfl
@[simp] theorem State.setOutValid_outValid (s : State) (v : Bool) : (s.setOutValid v).outValid = v := rfl
@[simp] theorem State.setOutValid_O (s : State) (v : Bool) : (s.setOutValid v).O = s.O := rfl
@[simp] theorem State.setOutValid_fault (s : State) (v : Bool) : (s.setOutValid v).fault = s.fault := rfl
@[simp] theorem State.setOutValid_resyncCount (s : State) (v : Bool) : (s.setOutValid v).resyncCount = s.resyncCount := rfl
@[simp] theorem State.setOutValid_lastResult (s : State) (v : Bool) : (s.setOutValid v).lastResult = s.lastResult := rfl
@[simp] theorem State.setOutValid_inputs (s : State) (v : Bool) : (s.setOutValid v).inputs = s.inputs := rfl
@[simp] theorem State.setOutValid_freeIndex (s : State) (v : Bool) : (s.setOutValid v).freeIndex = s.freeIndex := rfl
@[simp] theorem State.setOutValid_out (s : State) (v : Bool) : (s.setOutValid v).out = s.out := rfl

/-! `setO` -/

@[simp] theorem State.setO_W (s : State) (v : SensorFrame) : (s.setO v).W = s.W := rfl
@[simp] theorem State.setO_cnt (s : State) (v : SensorFrame) : (s.setO v).cnt = s.cnt := rfl
@[simp] theorem State.setO_outValid (s : State) (v : SensorFrame) : (s.setO v).outValid = s.outValid := rfl
@[simp] theorem State.setO_O (s : State) (v : SensorFrame) : (s.setO v).O = v := rfl
@[simp] theorem State.setO_fault (s : State) (v : SensorFrame) : (s.setO v).fault = s.fault := rfl
@[simp] theorem State.setO_resyncCount (s : State) (v : SensorFrame) : (s.setO v).resyncCount = s.resyncCount := rfl
@[simp] theorem State.setO_lastResult (s : State) (v : SensorFrame) : (s.setO v).lastResult = s.lastResult := rfl
@[simp] theorem State.setO_inputs (s : State) (v : SensorFrame) : (s.setO v).inputs = s.inputs := rfl
@[simp] theorem State.setO_freeIndex (s : State) (v : SensorFrame) : (s.setO v).freeIndex = s.freeIndex := rfl
@[simp] theorem State.setO_out (s : State) (v : SensorFrame) : (s.setO v).out = s.out := rfl

/-! `setFault` -/

@[simp] theorem State.setFault_W (s : State) (v : Bool) : (s.setFault v).W = s.W := rfl
@[simp] theorem State.setFault_cnt (s : State) (v : Bool) : (s.setFault v).cnt = s.cnt := rfl
@[simp] theorem State.setFault_outValid (s : State) (v : Bool) : (s.setFault v).outValid = s.outValid := rfl
@[simp] theorem State.setFault_O (s : State) (v : Bool) : (s.setFault v).O = s.O := rfl
@[simp] theorem State.setFault_fault (s : State) (v : Bool) : (s.setFault v).fault = v := rfl
@[simp] theorem State.setFault_resyncCount (s : State) (v : Bool) : (s.setFault v).resyncCount = s.resyncCount := rfl
@[simp] theorem State.setFault_lastResult (s : State) (v : Bool) : (s.setFault v).lastResult = s.lastResult := rfl
@[simp] theorem State.setFault_inputs (s : State) (v : Bool) : (s.setFault v).inputs = s.inputs := rfl
@[simp] theorem State.setFault_freeIndex (s : State) (v : Bool) : (s.setFault v).freeIndex = s.freeIndex := rfl
@[simp] theorem State.setFault_out (s : State) (v : Bool) : (s.setFault v).out = s.out := rfl

/-! `setResyncCount` -/

@[simp] theorem State.setResyncCount_W (s : State) (n : BitVec 32) : (s.setResyncCount n).W = s.W := rfl
@[simp] theorem State.setResyncCount_cnt (s : State) (n : BitVec 32) : (s.setResyncCount n).cnt = s.cnt := rfl
@[simp] theorem State.setResyncCount_outValid (s : State) (n : BitVec 32) : (s.setResyncCount n).outValid = s.outValid := rfl
@[simp] theorem State.setResyncCount_O (s : State) (n : BitVec 32) : (s.setResyncCount n).O = s.O := rfl
@[simp] theorem State.setResyncCount_fault (s : State) (n : BitVec 32) : (s.setResyncCount n).fault = s.fault := rfl
@[simp] theorem State.setResyncCount_resyncCount (s : State) (n : BitVec 32) : (s.setResyncCount n).resyncCount = n := rfl
@[simp] theorem State.setResyncCount_lastResult (s : State) (n : BitVec 32) : (s.setResyncCount n).lastResult = s.lastResult := rfl
@[simp] theorem State.setResyncCount_inputs (s : State) (n : BitVec 32) : (s.setResyncCount n).inputs = s.inputs := rfl
@[simp] theorem State.setResyncCount_freeIndex (s : State) (n : BitVec 32) : (s.setResyncCount n).freeIndex = s.freeIndex := rfl
@[simp] theorem State.setResyncCount_out (s : State) (n : BitVec 32) : (s.setResyncCount n).out = s.out := rfl

/-! `setLastResult` -/

@[simp] theorem State.setLastResult_W (s : State) (c : ResultCode) : (s.setLastResult c).W = s.W := rfl
@[simp] theorem State.setLastResult_cnt (s : State) (c : ResultCode) : (s.setLastResult c).cnt = s.cnt := rfl
@[simp] theorem State.setLastResult_outValid (s : State) (c : ResultCode) : (s.setLastResult c).outValid = s.outValid := rfl
@[simp] theorem State.setLastResult_O (s : State) (c : ResultCode) : (s.setLastResult c).O = s.O := rfl
@[simp] theorem State.setLastResult_fault (s : State) (c : ResultCode) : (s.setLastResult c).fault = s.fault := rfl
@[simp] theorem State.setLastResult_resyncCount (s : State) (c : ResultCode) : (s.setLastResult c).resyncCount = s.resyncCount := rfl
@[simp] theorem State.setLastResult_lastResult (s : State) (c : ResultCode) : (s.setLastResult c).lastResult = c := rfl
@[simp] theorem State.setLastResult_inputs (s : State) (c : ResultCode) : (s.setLastResult c).inputs = s.inputs := rfl
@[simp] theorem State.setLastResult_freeIndex (s : State) (c : ResultCode) : (s.setLastResult c).freeIndex = s.freeIndex := rfl
@[simp] theorem State.setLastResult_out (s : State) (c : ResultCode) : (s.setLastResult c).out = s.out := rfl

/-! `setConsumed` -/

@[simp] theorem State.setConsumed_W (s : State) : s.setConsumed.W = s.W := rfl
@[simp] theorem State.setConsumed_cnt (s : State) : s.setConsumed.cnt = s.cnt := rfl
@[simp] theorem State.setConsumed_outValid (s : State) : s.setConsumed.outValid = s.outValid := rfl
@[simp] theorem State.setConsumed_O (s : State) : s.setConsumed.O = s.O := rfl
@[simp] theorem State.setConsumed_fault (s : State) : s.setConsumed.fault = s.fault := rfl
@[simp] theorem State.setConsumed_resyncCount (s : State) : s.setConsumed.resyncCount = s.resyncCount := rfl
@[simp] theorem State.setConsumed_lastResult (s : State) : s.setConsumed.lastResult = s.lastResult := rfl
@[simp] theorem State.setConsumed_inputs (s : State) : s.setConsumed.inputs = s.inputs := rfl
@[simp] theorem State.setConsumed_freeIndex (s : State) : s.setConsumed.freeIndex = s.freeIndex := rfl
@[simp] theorem State.setConsumed_out (s : State) : s.setConsumed.out = { s.out with consumed := true } := rfl

/-! `setDelivered` -/

@[simp] theorem State.setDelivered_W (s : State) (v : SensorFrame) : (s.setDelivered v).W = s.W := rfl
@[simp] theorem State.setDelivered_cnt (s : State) (v : SensorFrame) : (s.setDelivered v).cnt = s.cnt := rfl
@[simp] theorem State.setDelivered_outValid (s : State) (v : SensorFrame) : (s.setDelivered v).outValid = s.outValid := rfl
@[simp] theorem State.setDelivered_O (s : State) (v : SensorFrame) : (s.setDelivered v).O = s.O := rfl
@[simp] theorem State.setDelivered_fault (s : State) (v : SensorFrame) : (s.setDelivered v).fault = s.fault := rfl
@[simp] theorem State.setDelivered_resyncCount (s : State) (v : SensorFrame) : (s.setDelivered v).resyncCount = s.resyncCount := rfl
@[simp] theorem State.setDelivered_lastResult (s : State) (v : SensorFrame) : (s.setDelivered v).lastResult = s.lastResult := rfl
@[simp] theorem State.setDelivered_inputs (s : State) (v : SensorFrame) : (s.setDelivered v).inputs = s.inputs := rfl
@[simp] theorem State.setDelivered_freeIndex (s : State) (v : SensorFrame) : (s.setDelivered v).freeIndex = s.freeIndex := rfl
@[simp] theorem State.setDelivered_out (s : State) (v : SensorFrame) : (s.setDelivered v).out = { s.out with delivered := some v } := rfl

/-! `emitEvent` -/

@[simp] theorem State.emitEvent_W (s : State) (c : ResultCode) : (s.emitEvent c).W = s.W := rfl
@[simp] theorem State.emitEvent_cnt (s : State) (c : ResultCode) : (s.emitEvent c).cnt = s.cnt := rfl
@[simp] theorem State.emitEvent_outValid (s : State) (c : ResultCode) : (s.emitEvent c).outValid = s.outValid := rfl
@[simp] theorem State.emitEvent_O (s : State) (c : ResultCode) : (s.emitEvent c).O = s.O := rfl
@[simp] theorem State.emitEvent_fault (s : State) (c : ResultCode) : (s.emitEvent c).fault = s.fault := rfl
@[simp] theorem State.emitEvent_resyncCount (s : State) (c : ResultCode) : (s.emitEvent c).resyncCount = s.resyncCount := rfl
@[simp] theorem State.emitEvent_lastResult (s : State) (c : ResultCode) : (s.emitEvent c).lastResult = s.lastResult := rfl
@[simp] theorem State.emitEvent_inputs (s : State) (c : ResultCode) : (s.emitEvent c).inputs = s.inputs := rfl
@[simp] theorem State.emitEvent_freeIndex (s : State) (c : ResultCode) : (s.emitEvent c).freeIndex = s.freeIndex := rfl
@[simp] theorem State.emitEvent_out (s : State) (c : ResultCode) : (s.emitEvent c).out = { s.out with evt := some c } := rfl

/-! `beginStep` -/

@[simp] theorem State.beginStep_W (s : State) : s.beginStep.W = s.W := rfl
@[simp] theorem State.beginStep_cnt (s : State) : s.beginStep.cnt = s.cnt := rfl
@[simp] theorem State.beginStep_outValid (s : State) : s.beginStep.outValid = s.outValid := rfl
@[simp] theorem State.beginStep_O (s : State) : s.beginStep.O = s.O := rfl
@[simp] theorem State.beginStep_fault (s : State) : s.beginStep.fault = s.fault := rfl
@[simp] theorem State.beginStep_resyncCount (s : State) : s.beginStep.resyncCount = s.resyncCount := rfl
@[simp] theorem State.beginStep_lastResult (s : State) : s.beginStep.lastResult = s.lastResult := rfl
@[simp] theorem State.beginStep_inputs (s : State) : s.beginStep.inputs = s.inputs.tail := rfl
@[simp] theorem State.beginStep_freeIndex (s : State) : s.beginStep.freeIndex = s.nextFreeIndex := rfl
@[simp] theorem State.beginStep_out (s : State) : s.beginStep.out = s.startOutput := rfl

/-! `withInput` -/

@[simp] theorem State.withInput_W (s : State) (i : Input) : (s.withInput i).W = s.W := rfl
@[simp] theorem State.withInput_cnt (s : State) (i : Input) : (s.withInput i).cnt = s.cnt := rfl
@[simp] theorem State.withInput_outValid (s : State) (i : Input) : (s.withInput i).outValid = s.outValid := rfl
@[simp] theorem State.withInput_O (s : State) (i : Input) : (s.withInput i).O = s.O := rfl
@[simp] theorem State.withInput_fault (s : State) (i : Input) : (s.withInput i).fault = s.fault := rfl
@[simp] theorem State.withInput_resyncCount (s : State) (i : Input) : (s.withInput i).resyncCount = s.resyncCount := rfl
@[simp] theorem State.withInput_lastResult (s : State) (i : Input) : (s.withInput i).lastResult = s.lastResult := rfl
@[simp] theorem State.withInput_inputs (s : State) (i : Input) : (s.withInput i).inputs = i :: s.inputs := rfl
@[simp] theorem State.withInput_freeIndex (s : State) (i : Input) : (s.withInput i).freeIndex = s.freeIndex := rfl
@[simp] theorem State.withInput_out (s : State) (i : Input) : (s.withInput i).out = s.out := rfl

/-! `offer` -/

@[simp] theorem State.offer_W (s : State) (l : ScriptLine) : (s.offer l).W = s.W := rfl
@[simp] theorem State.offer_cnt (s : State) (l : ScriptLine) : (s.offer l).cnt = s.cnt := rfl
@[simp] theorem State.offer_outValid (s : State) (l : ScriptLine) : (s.offer l).outValid = s.outValid := rfl
@[simp] theorem State.offer_O (s : State) (l : ScriptLine) : (s.offer l).O = s.O := rfl
@[simp] theorem State.offer_fault (s : State) (l : ScriptLine) : (s.offer l).fault = s.fault := rfl
@[simp] theorem State.offer_resyncCount (s : State) (l : ScriptLine) : (s.offer l).resyncCount = s.resyncCount := rfl
@[simp] theorem State.offer_lastResult (s : State) (l : ScriptLine) : (s.offer l).lastResult = s.lastResult := rfl
@[simp] theorem State.offer_inputs (s : State) (l : ScriptLine) : (s.offer l).inputs = l.toInput :: s.inputs := rfl
@[simp] theorem State.offer_freeIndex (s : State) (l : ScriptLine) : (s.offer l).freeIndex = s.freeIndex := rfl
@[simp] theorem State.offer_out (s : State) (l : ScriptLine) : (s.offer l).out = s.out := rfl

/-! `clear` -/

@[simp] theorem clear_W (s : State) : (clear s).W = [] := rfl
@[simp] theorem clear_cnt (s : State) : (clear s).cnt = 0 := rfl
@[simp] theorem clear_outValid (s : State) : (clear s).outValid = s.outValid := rfl
@[simp] theorem clear_O (s : State) : (clear s).O = s.O := rfl
@[simp] theorem clear_fault (s : State) : (clear s).fault = s.fault := rfl
@[simp] theorem clear_resyncCount (s : State) : (clear s).resyncCount = s.resyncCount := rfl
@[simp] theorem clear_lastResult (s : State) : (clear s).lastResult = s.lastResult := rfl
@[simp] theorem clear_inputs (s : State) : (clear s).inputs = s.inputs := rfl
@[simp] theorem clear_freeIndex (s : State) : (clear s).freeIndex = s.freeIndex := rfl
@[simp] theorem clear_out (s : State) : (clear s).out = s.out := rfl

/-! `restart` -/

@[simp] theorem restart_W (s : State) : (restart s).W = [] := rfl
@[simp] theorem restart_cnt (s : State) : (restart s).cnt = 0 := rfl
@[simp] theorem restart_outValid (s : State) : (restart s).outValid = false := rfl
@[simp] theorem restart_O (s : State) : (restart s).O = resetO := rfl
@[simp] theorem restart_fault (s : State) : (restart s).fault = false := rfl
@[simp] theorem restart_resyncCount (s : State) : (restart s).resyncCount = 0 := rfl
@[simp] theorem restart_lastResult (s : State) : (restart s).lastResult = ResultCode.none := rfl
@[simp] theorem restart_inputs (s : State) : (restart s).inputs = s.inputs := rfl
@[simp] theorem restart_freeIndex (s : State) : (restart s).freeIndex = s.freeIndex := rfl
@[simp] theorem restart_out (s : State) : (restart s).out = s.out := rfl

/-! `raiseSourceError` -/

@[simp] theorem raiseSourceError_W (s : State) : (raiseSourceError s).W = s.W := rfl
@[simp] theorem raiseSourceError_cnt (s : State) : (raiseSourceError s).cnt = s.cnt := rfl
@[simp] theorem raiseSourceError_outValid (s : State) : (raiseSourceError s).outValid = s.outValid := rfl
@[simp] theorem raiseSourceError_O (s : State) : (raiseSourceError s).O = s.O := rfl
@[simp] theorem raiseSourceError_fault (s : State) : (raiseSourceError s).fault = true := rfl
@[simp] theorem raiseSourceError_resyncCount (s : State) : (raiseSourceError s).resyncCount = s.resyncCount := rfl
@[simp] theorem raiseSourceError_lastResult (s : State) : (raiseSourceError s).lastResult = ResultCode.sourceError := rfl
@[simp] theorem raiseSourceError_inputs (s : State) : (raiseSourceError s).inputs = s.inputs := rfl
@[simp] theorem raiseSourceError_freeIndex (s : State) : (raiseSourceError s).freeIndex = s.freeIndex := rfl
@[simp] theorem raiseSourceError_out (s : State) : (raiseSourceError s).out = { s.out with evt := some .sourceError } := rfl

/-! The output record a step begins with -/

@[simp] theorem State.startOutput_inReady (s : State) : s.startOutput.inReady = s.inReady := rfl
@[simp] theorem State.startOutput_consumed (s : State) : s.startOutput.consumed = false := rfl
@[simp] theorem State.startOutput_delivered (s : State) : s.startOutput.delivered = none := rfl
@[simp] theorem State.startOutput_evt (s : State) : s.startOutput.evt = none := rfl

end Sys2Proof.Machine
end

