-- ==== Sys2Proof/Laws/Memory.lean ====
section
/-! SUPPORT. The window memory: what reads give after each operation, and that each keeps the canonical form. -/

namespace Sys2Proof.Machine

@[simp] theorem Memory.read_nil (a : Nat) : Memory.read [] a = none := rfl

@[simp] theorem Memory.read_cons (x : Nat) (v : Byte) (m : Memory) (a : Nat) :
    Memory.read ((x, v) :: m) a = if a = x then some v else Memory.read m a := rfl

/-- A read of the cell just written gives the value written; every other cell reads as before. -/
theorem Memory.read_write (m : Memory) (a c : Nat) (b : Byte) :
    (m.write a b).read c = if c = a then some b else m.read c := by
  induction m with
  | nil => simp [Memory.write]
  | cons p m ih =>
    obtain ⟨x, v⟩ := p
    simp only [Memory.write]
    split
    · simp
    · split
      · subst_vars
        simp only [Memory.read_cons]
        split <;> rfl
      · simp only [Memory.read_cons, ih]
        split
        · rw [if_neg (by omega)]
        · rfl

@[simp] theorem Memory.read_write_same (m : Memory) (a : Nat) (b : Byte) : (m.write a b).read a = some b := by
  simp [Memory.read_write]

theorem Memory.read_write_other (m : Memory) {a c : Nat} (b : Byte) (h : c ≠ a) : (m.write a b).read c = m.read c := by
  simp [Memory.read_write, h]

/-- After the shift of PopFront, each cell reads as the next one did. -/
@[simp] theorem Memory.read_shiftDown (m : Memory) (a : Nat) : m.shiftDown.read a = m.read (a + 1) := by
  induction m with
  | nil => rfl
  | cons p m ih =>
    obtain ⟨x, v⟩ := p
    simp only [Memory.shiftDown]
    split
    · simp [ih]
      omega
    · simp only [Memory.read_cons, ih]
      split <;> split <;> first | rfl | omega

/-- A cell not among the listed indices holds no value. -/
theorem Memory.read_eq_none (m : Memory) (a : Nat) (h : a ∉ m.map Prod.fst) : m.read a = none := by
  induction m with
  | nil => rfl
  | cons p m ih =>
    obtain ⟨x, v⟩ := p
    simp only [List.map_cons, List.mem_cons, not_or] at h
    simp [h.1, ih h.2]

/-- A cell among the listed indices holds a value. -/
theorem Memory.read_isSome (m : Memory) (a : Nat) (h : a ∈ m.map Prod.fst) : (m.read a).isSome := by
  induction m with
  | nil => simp at h
  | cons p m ih =>
    obtain ⟨x, v⟩ := p
    simp only [List.map_cons, List.mem_cons] at h
    simp only [Memory.read_cons]
    split
    · rfl
    · exact ih (by tauto)

theorem Memory.risesFrom_mono {lo lo' : Nat} (h : lo ≤ lo') {m : Memory} (w : Memory.risesFrom lo' m = true) :
    Memory.risesFrom lo m = true := by
  cases m with
  | nil => rfl
  | cons p m =>
    simp only [Memory.risesFrom, Bool.and_eq_true, decide_eq_true_eq] at w ⊢
    exact ⟨⟨by omega, w.1.2⟩, w.2⟩

theorem Memory.risesFrom_write {lo a : Nat} {m : Memory} (b : Byte) (ha : a < 32) (hlo : lo ≤ a)
    (w : Memory.risesFrom lo m = true) : Memory.risesFrom lo (m.write a b) = true := by
  induction m generalizing lo with
  | nil => simp [Memory.write, Memory.risesFrom, ha, hlo]
  | cons p m ih =>
    obtain ⟨x, v⟩ := p
    simp only [Memory.risesFrom, Bool.and_eq_true, decide_eq_true_eq] at w
    simp only [Memory.write]
    split
    · simp only [Memory.risesFrom, Bool.and_eq_true, decide_eq_true_eq]
      exact ⟨⟨hlo, ha⟩, ⟨by omega, w.1.2⟩, w.2⟩
    · split
      · subst_vars
        simp only [Memory.risesFrom, Bool.and_eq_true, decide_eq_true_eq]
        exact ⟨⟨hlo, ha⟩, w.2⟩
      · simp only [Memory.risesFrom, Bool.and_eq_true, decide_eq_true_eq]
        exact ⟨w.1, ih (by omega) w.2⟩

theorem Memory.risesFrom_shiftDown {lo : Nat} {m : Memory} (w : Memory.risesFrom lo m = true) :
    Memory.risesFrom (lo - 1) m.shiftDown = true := by
  induction m generalizing lo with
  | nil => rfl
  | cons p m ih =>
    obtain ⟨x, v⟩ := p
    simp only [Memory.risesFrom, Bool.and_eq_true, decide_eq_true_eq] at w
    have h := ih w.2
    simp only [Memory.shiftDown]
    split
    · exact Memory.risesFrom_mono (by omega) h
    · simp only [Memory.risesFrom, Bool.and_eq_true, decide_eq_true_eq]
      refine ⟨⟨by omega, by omega⟩, ?_⟩
      have e : x - 1 + 1 = x + 1 - 1 := by omega
      rw [e]
      exact h

/-- Writing an existing cell keeps the canonical form. -/
theorem Memory.wf_write {m : Memory} {a : Nat} (b : Byte) (ha : a < 32) (w : m.wf = true) : (m.write a b).wf = true :=
  Memory.risesFrom_write b ha (Nat.zero_le a) w

/-- The shift of PopFront keeps the canonical form. -/
theorem Memory.wf_shiftDown {m : Memory} (w : m.wf = true) : m.shiftDown.wf = true := Memory.risesFrom_shiftDown w

/-- The empty window is in canonical form. -/
theorem Memory.wf_nil : Memory.wf [] = true := rfl

/-- The window after reset is in canonical form. -/
theorem State.reset_window_wf : State.reset.W.wf = true := rfl

/-- Consecutive indices below 32 are in canonical form. -/
theorem Memory.risesFrom_range' {lo n : Nat} {m : Memory} (h : m.map Prod.fst = List.range' lo n) (hn : lo + n ≤ 32) :
    Memory.risesFrom lo m = true := by
  induction m generalizing lo n with
  | nil => rfl
  | cons p m ih =>
    obtain ⟨x, v⟩ := p
    cases n with
    | zero => simp at h
    | succ n =>
      simp only [List.map_cons, List.range'_succ, List.cons.injEq] at h
      obtain ⟨rfl, h⟩ := h
      simp only [Memory.risesFrom, Bool.and_eq_true, decide_eq_true_eq]
      exact ⟨⟨Nat.le_refl _, by omega⟩, ih h (by omega)⟩

/-- Two memories in canonical form that agree on every cell are equal. -/
theorem Memory.risesFrom_ext {lo : Nat} {m m' : Memory} (w : Memory.risesFrom lo m = true) (w' : Memory.risesFrom lo m' = true)
    (h : ∀ a, m.read a = m'.read a) : m = m' := by
  have low : ∀ {lo a : Nat} {m : Memory}, Memory.risesFrom lo m = true → a < lo → m.read a = none := by
    intro lo a m w ha
    induction m generalizing lo with
    | nil => rfl
    | cons p m ih =>
      simp only [Memory.risesFrom, Bool.and_eq_true, decide_eq_true_eq] at w
      rw [Memory.read_cons, if_neg (by omega)]
      exact ih w.2 (by omega)
  induction m generalizing lo m' with
  | nil =>
    cases m' with
    | nil => rfl
    | cons p m' =>
      obtain ⟨y, u⟩ := p
      simpa using h y
  | cons p m ih =>
    obtain ⟨x, v⟩ := p
    cases m' with
    | nil => simpa using h x
    | cons q m' =>
      obtain ⟨y, u⟩ := q
      simp only [Memory.risesFrom, Bool.and_eq_true, decide_eq_true_eq] at w w'
      have hx := h x
      have hy := h y
      simp only [Memory.read_cons, if_true] at hx hy
      have hxy : x = y := by
        by_contra hne
        rcases Nat.lt_or_gt_of_ne hne with hlt | hlt
        · rw [if_neg hne, low w'.2 (by omega)] at hx
          simp at hx
        · rw [if_neg (fun e => hne e.symm), low w.2 (by omega)] at hy
          simp at hy
      subst hxy
      simp only [if_true, Option.some.injEq] at hx
      subst hx
      congr 1
      refine ih w.2 w'.2 fun a => ?_
      by_cases ha : a = x
      · subst ha
        rw [low w.2 (by omega), low w'.2 (by omega)]
      · simpa [ha] using h a

/-- Equal windows are equal data. -/
theorem Memory.wf_ext {m m' : Memory} (w : m.wf = true) (w' : m'.wf = true) (h : ∀ a, m.read a = m'.read a) : m = m' :=
  Memory.risesFrom_ext w w' h

end Sys2Proof.Machine
end

