-- ==== Sys2Proof/Laws/Window.lean ====
section
/-! SUPPORT. The window as the list of its bytes, oldest first: what Push, PopFront, Clear and Snapshot do to that list. -/

namespace Sys2Proof.Machine

/-- The bytes of the listed cells, in the order of their indices. -/
def Memory.bytes (m : Memory) : List Byte := m.map Prod.snd

theorem Memory.map_fst_ofBytesFrom (a : Nat) (bs : List Byte) :
    (Memory.ofBytesFrom a bs).map Prod.fst = List.range' a bs.length := by
  induction bs generalizing a with
  | nil => rfl
  | cons b bs ih => simp [Memory.ofBytesFrom, ih, List.range'_succ]

@[simp] theorem Memory.map_fst_ofBytes (bs : List Byte) : (Memory.ofBytes bs).map Prod.fst = List.range bs.length := by
  simp [Memory.ofBytes, Memory.map_fst_ofBytesFrom, List.range_eq_range']

theorem Memory.bytes_ofBytesFrom (a : Nat) (bs : List Byte) : (Memory.ofBytesFrom a bs).bytes = bs := by
  induction bs generalizing a with
  | nil => rfl
  | cons b bs ih =>
    have := ih (a + 1)
    simp only [Memory.bytes] at this
    simp [Memory.ofBytesFrom, Memory.bytes, this]

@[simp] theorem Memory.bytes_ofBytes (bs : List Byte) : (Memory.ofBytes bs).bytes = bs := Memory.bytes_ofBytesFrom 0 bs

theorem Memory.eq_ofBytesFrom {m : Memory} {a n : Nat} (h : m.map Prod.fst = List.range' a n) :
    m = Memory.ofBytesFrom a m.bytes := by
  induction m generalizing a n with
  | nil => rfl
  | cons p m ih =>
    obtain ⟨x, v⟩ := p
    cases n with
    | zero => simp at h
    | succ n =>
      simp only [List.map_cons, List.range'_succ, List.cons.injEq] at h
      obtain ⟨rfl, h⟩ := h
      have := ih h
      simp only [Memory.bytes] at this
      simp only [Memory.bytes, List.map_cons, Memory.ofBytesFrom]
      rw [← this]

/-- A window whose cells are `W[0]` to `W[n-1]` is the window of its bytes. -/
theorem Memory.eq_ofBytes {m : Memory} {n : Nat} (h : m.map Prod.fst = List.range n) : m = Memory.ofBytes m.bytes :=
  Memory.eq_ofBytesFrom (List.range_eq_range' ▸ h)

theorem Memory.read_ofBytesFrom (a i : Nat) (bs : List Byte) :
    (Memory.ofBytesFrom a bs).read i = if i < a then none else bs[i - a]? := by
  induction bs generalizing a with
  | nil => simp [Memory.ofBytesFrom]
  | cons b bs ih =>
    simp only [Memory.ofBytesFrom, Memory.read_cons, ih]
    by_cases h : i = a
    · subst h
      simp
    · by_cases h' : i < a
      · rw [if_neg h, if_pos (by omega), if_pos h']
      · rw [if_neg h, if_neg (by omega), if_neg h', show i - a = i - (a + 1) + 1 by omega, List.getElem?_cons_succ]

/-- Cell `i` of the window of a list holds its element `i`. -/
@[simp] theorem Memory.read_ofBytes (i : Nat) (bs : List Byte) : (Memory.ofBytes bs).read i = bs[i]? := by
  simp [Memory.ofBytes, Memory.read_ofBytesFrom]

theorem Memory.write_ofBytesFrom (a : Nat) (bs : List Byte) (b : Byte) :
    (Memory.ofBytesFrom a bs).write (a + bs.length) b = Memory.ofBytesFrom a (bs ++ [b]) := by
  induction bs generalizing a with
  | nil => simp [Memory.ofBytesFrom, Memory.write]
  | cons c bs ih =>
    simp only [Memory.ofBytesFrom, Memory.write, List.cons_append, List.length_cons]
    rw [if_neg (by omega), if_neg (by omega), ← ih (a + 1), show a + (bs.length + 1) = a + 1 + bs.length by omega]

/-- Push on the window of a list appends the byte. -/
theorem Memory.write_ofBytes (bs : List Byte) (b : Byte) :
    (Memory.ofBytes bs).write bs.length b = Memory.ofBytes (bs ++ [b]) := by
  simpa [Memory.ofBytes] using Memory.write_ofBytesFrom 0 bs b

theorem Memory.shiftDown_ofBytesFrom (a : Nat) (bs : List Byte) :
    (Memory.ofBytesFrom (a + 1) bs).shiftDown = Memory.ofBytesFrom a bs := by
  induction bs generalizing a with
  | nil => rfl
  | cons b bs ih => simp [Memory.ofBytesFrom, Memory.shiftDown, ih]

/-- PopFront on the window of a list drops its first byte. -/
theorem Memory.shiftDown_ofBytes (bs : List Byte) : (Memory.ofBytes bs).shiftDown = Memory.ofBytes bs.tail := by
  cases bs with
  | nil => rfl
  | cons b bs => simp [Memory.ofBytes, Memory.ofBytesFrom, Memory.shiftDown, Memory.shiftDown_ofBytesFrom]

/-- A filled window is the window of a list of `cnt` bytes. -/
theorem State.windowFilled_iff (s : State) :
    s.windowFilled ↔ ∃ bs : List Byte, s.W = Memory.ofBytes bs ∧ bs.length = s.cnt.toNat ∧ bs.length ≤ 32 := by
  constructor
  · rintro ⟨h, hn⟩
    have e := Memory.eq_ofBytes h
    have l : s.W.bytes.length = s.cnt.toNat := by
      have := congrArg List.length h
      simpa [Memory.bytes] using this
    exact ⟨s.W.bytes, e, l, by omega⟩
  · rintro ⟨bs, e, l, hn⟩
    exact ⟨by rw [e, Memory.map_fst_ofBytes, l], by omega⟩

/-- The cells of a filled window are the elements of its list. -/
theorem State.cell_ofBytes {s : State} {bs : List Byte} (e : s.W = Memory.ofBytes bs) (l : bs.length = s.cnt.toNat) (i : Nat) :
    s.cell i = bs[i]? := by
  simp only [State.cell, e, Memory.read_ofBytes]
  split
  · rfl
  · rw [List.getElem?_eq_none (by omega)]

/-- Snapshot gives a frame exactly when it is the 32 cells (40_byte_window.md R113). -/
theorem snapshot_eq_ok (s : State) (f : Frame) : snapshot s = .ok f ↔ ∀ i : Fin 32, s.cell i.val = some f[i] := by
  unfold snapshot
  split
  · rename_i h
    simp only [Except.ok.injEq]
    constructor
    · rintro rfl i
      simp
    · intro g
      apply Vector.ext
      intro i hi
      have := g ⟨i, hi⟩
      simp [this]
  · rename_i h
    simp only [reduceCtorEq, false_iff]
    intro g
    exact h fun i => by simp [g i]

/-- Snapshot stops exactly when a cell holds no value. -/
theorem snapshot_eq_error (s : State) (e : Fault) :
    snapshot s = .error e ↔ e = .cellHoldsNoValue ∧ ∃ i : Fin 32, s.cell i.val = none := by
  unfold snapshot
  split
  · rename_i h
    simp only [reduceCtorEq, false_iff, not_and, not_exists]
    intro _ i hi
    have := h i
    simp [hi] at this
  · rename_i h
    simp only [Except.error.injEq, eq_comm (a := Fault.cellHoldsNoValue), iff_self_and]
    intro _
    simpa [Option.isSome_iff_ne_none] using h

/-- The snapshot of a full window is the list of its bytes. -/
theorem snapshot_ofBytes {s : State} {f : Frame} (e : s.W = Memory.ofBytes f.toList) (l : s.cnt = 32) : snapshot s = .ok f := by
  rw [snapshot_eq_ok]
  intro i
  rw [State.cell_ofBytes e (by simp [l])]
  simp

/-- A filled window that is full has a snapshot, and it is the window of that frame's bytes. -/
theorem snapshot_of_full {s : State} (w : s.windowFilled) (c : s.cnt = 32) :
    ∃ f : Frame, snapshot s = .ok f ∧ s.W = Memory.ofBytes f.toList := by
  obtain ⟨bs, e, l, _⟩ := (State.windowFilled_iff s).mp w
  have l' : bs.length = 32 := by simpa [c] using l
  refine ⟨⟨bs.toArray, by simpa using l'⟩, ?_, by simpa using e⟩
  exact snapshot_ofBytes (by simpa using e) c

end Sys2Proof.Machine
end

