-- ==== Sys2Proof/Laws/Ops.lean ====
section
/-! SUPPORT. What each shared operation and each meaning can do, said once. -/

namespace Sys2Proof.Machine

/-! ### Window primitives -/

/-- Everything Push can answer. -/
theorem push_eq_ok {b : Byte} {s t : State} :
    push b s = .ok t ↔ s.cnt.toNat < 32 ∧ t = s.setWindow (s.W.write s.cnt.toNat b) (s.cnt + 1) := by
  unfold push
  split <;> simp_all [eq_comm]

theorem push_eq_error {b : Byte} {s : State} {e : Fault} : push b s = .error e ↔ e = .noSuchCell ∧ 32 ≤ s.cnt.toNat := by
  unfold push
  split
  · simp only [reduceCtorEq, false_iff]
    omega
  · simp only [Except.error.injEq, eq_comm (a := Fault.noSuchCell), iff_self_and]
    omega

/-- Everything PopFront can answer. -/
theorem popFront_eq_ok {s t : State} {old : Byte} :
    popFront s = .ok (old, t) ↔ s.cell 0 = some old ∧ t = s.setWindow s.W.shiftDown (s.cnt - 1) := by
  unfold popFront
  cases s.cell 0 <;> simp [eq_comm]

theorem popFront_eq_error {s : State} {e : Fault} : popFront s = .error e ↔ e = .cellHoldsNoValue ∧ s.cell 0 = none := by
  unfold popFront
  cases s.cell 0 <;> simp [eq_comm]

/-- The cells after a Push. -/
theorem State.cell_push (s : State) (b : Byte) (h : s.cnt.toNat < 32) (i : Nat) :
    (s.setWindow (s.W.write s.cnt.toNat b) (s.cnt + 1)).cell i = if i = s.cnt.toNat then some b else s.cell i := by
  have hn : (s.cnt + 1).toNat = s.cnt.toNat + 1 := by
    rw [BitVec.toNat_add]
    simp
    omega
  simp only [State.cell, State.setWindow_W, State.setWindow_cnt, Memory.read_write, hn]
  by_cases e : i = s.cnt.toNat
  · simp [e]
  · by_cases l : i < s.cnt.toNat
    · simp [e, l, Nat.lt_succ_of_lt l]
    · rw [if_neg (by omega), if_neg e, if_neg l]

/-- The cells after a PopFront. -/
theorem State.cell_popFront (s : State) (h : s.cnt ≠ 0) (i : Nat) :
    (s.setWindow s.W.shiftDown (s.cnt - 1)).cell i = s.cell (i + 1) := by
  have pos : s.cnt.toNat ≠ 0 := fun e => h (BitVec.eq_of_toNat_eq (by simpa using e))
  have hn : (s.cnt - 1).toNat = s.cnt.toNat - 1 := by
    have := s.cnt.isLt
    rw [BitVec.toNat_sub]
    simp
    omega
  simp only [State.cell, State.setWindow_W, State.setWindow_cnt, Memory.read_shiftDown, hn]
  by_cases l : i + 1 < s.cnt.toNat
  · rw [if_pos (by omega), if_pos l]
  · rw [if_neg (by omega), if_neg l]

@[simp] theorem State.cell_clear (s : State) (i : Nat) : (clear s).cell i = none := by simp [State.cell]

/-! ### The meanings: the one next state each can give -/

theorem execReset_eq (s : State) : execReset s = .next (restart s) := rfl

theorem execFaultHold_eq (s : State) : execFaultHold s = .next s := rfl

theorem execOutWait_eq (s : State) : execOutWait s = .next s := rfl

theorem execIdle_eq (s : State) : execIdle s = .next s := rfl

theorem execSourceError_eq (s : State) : execSourceError s = .next (raiseSourceError s) := rfl

theorem execFill_next {b : Byte} {s t : State} :
    execFill b s = .next t ↔
      s.cnt.toNat < 32 ∧ t = (s.setWindow (s.W.write s.cnt.toNat b) (s.cnt + 1)).setConsumed := by
  unfold execFill push
  by_cases h : s.cnt.toNat < 32
  · simp [h, eq_comm]
  · simp [h]

theorem execOutAccept_next {s t : State} :
    execOutAccept s = .next t ↔ s.outValid = true ∧ t = (s.setDelivered s.O).setOutValid false := by
  unfold execOutAccept State.readO
  by_cases h : s.outValid = true
  · simp [h, eq_comm]
  · simp [h]

/-- The state a slide with code `c` gives. -/
def slideState (c : ResultCode) (s : State) : State :=
  (((s.setWindow s.W.shiftDown (s.cnt - 1)).setResyncCount (saturatingSucc s.resyncCount)).setLastResult c).emitEvent c

theorem slide_next {c : ResultCode} {s t : State} :
    slide c s = .next t ↔ (s.cell 0).isSome ∧ t = slideState c s := by
  unfold slide popFront slideState
  cases s.cell 0 <;> simp [eq_comm]

theorem execDecBadStart_next {f : Frame} {s t : State} :
    execDecBadStart f s = .next t ↔ (s.cell 0).isSome ∧ t = slideState .invalidStartByte s := slide_next

theorem execDecBadChecksum_next {f : Frame} {s t : State} :
    execDecBadChecksum f s = .next t ↔ (s.cell 0).isSome ∧ t = slideState .invalidChecksum s := slide_next

/-- The state DEC_OK gives. -/
def decOkState (f : Frame) (s : State) : State :=
  ((((clear ((s.setO (extractFields f)).setOutValid true)).setResyncCount 0).setLastResult .ok).emitEvent .ok)

theorem execDecOk_eq (f : Frame) (s : State) : execDecOk f s = .next (decOkState f s) := rfl

/-! ### The step -/

/-- A step that gives a next state applies the operation its selection picks. -/
theorem step_next {s t : State} (h : step s = .next t) : ∃ i, selectedOp s = some i ∧ exec i s.beginStep = .next t := by
  unfold step at h
  unfold selectedOp
  split at h
  · cases h
  · rename_i bytes hb
    split at h
    · cases h
    · rename_i i r hd
      exact ⟨i, by simp [hb, hd], h⟩

/-- A step whose selection picks an operation is that operation's meaning. -/
theorem step_of_selectedOp {s : State} {i : Instr} (h : selectedOp s = some i) : step s = exec i s.beginStep := by
  unfold selectedOp at h
  unfold step
  split at h
  · rename_i bytes hb
    split at h
    · rename_i j r hd
      cases h
      simp [hb, hd]
    · cases h
  · cases h

@[simp] theorem State.cell_beginStep (s : State) (i : Nat) : s.beginStep.cell i = s.cell i := rfl

end Sys2Proof.Machine
end

