-- ==== Sys2Proof/Laws/Codec.lean ====
section
/-! SUPPORT. The Frame Codec and the operation map: the cases of `decode` and of the frame rows, and the small lemmas of the byte form. -/

namespace Sys2Proof.Machine

/-- The three results of `decode`, each with its condition. -/
theorem frameDecode_cases (f : Frame) :
    (f[0] = Config.startByte ∧ frameChecksum f = frameSum f ∧ frameDecode f = .ok (extractFields f)) ∨
    (f[0] = Config.startByte ∧ frameChecksum f ≠ frameSum f ∧ frameDecode f = .error .invalidChecksum) ∨
    (f[0] ≠ Config.startByte ∧ frameDecode f = .error .invalidStartByte) := by
  unfold frameDecode
  by_cases h : f[0] = Config.startByte
  · by_cases g : frameChecksum f = frameSum f
    · exact .inl ⟨h, g, by rw [if_neg (not_not.mpr h)]; simp [g]⟩
    · exact .inr (.inl ⟨h, g, by rw [if_neg (not_not.mpr h)]; simp [g]⟩)
  · exact .inr (.inr ⟨h, by rw [if_pos h]⟩)

/-- The three decision rows, each with its condition. -/
theorem classifyFrame_cases (f : Frame) :
    (f[0] = Config.startByte ∧ frameChecksum f = frameSum f ∧ classifyFrame f = .decOk f) ∨
    (f[0] = Config.startByte ∧ frameChecksum f ≠ frameSum f ∧ classifyFrame f = .decBadChecksum f) ∨
    (f[0] ≠ Config.startByte ∧ classifyFrame f = .decBadStart f) := by
  unfold classifyFrame
  by_cases h : f[0] = Config.startByte
  · by_cases g : frameChecksum f = frameSum f
    · exact .inl ⟨h, g, by rw [if_pos h, if_pos g]⟩
    · exact .inr (.inl ⟨h, g, by rw [if_pos h, if_neg g]⟩)
  · exact .inr (.inr ⟨h, by rw [if_neg h]⟩)

@[simp] theorem getElem_extractFields (f : Frame) (k : Nat) (h : k < 15) :
    (extractFields f)[k] = beU16 (f[2 + 2 * k]'(by omega)) (f[3 + 2 * k]'(by omega)) := by
  simp [extractFields]

end Sys2Proof.Machine

namespace Sys2Proof

theorem selByte_bit7 : ∀ sel : Sel, (selByte sel).getLsbD 7 = false := by decide

@[simp] theorem selByte_getElem_7 : ∀ sel : Sel, (selByte sel)[7] = false := by decide

@[simp] theorem setWidth_selByte : ∀ sel : Sel, (selByte sel).setWidth 7 = sel := by decide

theorem selByte_setWidth : ∀ b : Byte, b.getLsbD 7 = false → selByte (b.setWidth 7) = b := by decide

/-- Some row matches every selection value (30_encoding.md R88). -/
theorem selectRow_isSome : ∀ sel : Sel, (selectRow sel).isSome = true := by decide

/-- The pattern of an operation selects its row. -/
@[simp] theorem selectRow_selPattern (i : Instr) : selectRow i.selPattern = some i.selOp := by
  cases i
  · show selectRow 0x40 = some .reset
    decide
  · show selectRow 0x20 = some .faultHold
    decide
  · show selectRow 0x11 = some .outAccept
    decide
  · show selectRow 0x10 = some .outWait
    decide
  · show selectRow 0x08 = some .decisionPoint
    decide
  · show selectRow 0x08 = some .decisionPoint
    decide
  · show selectRow 0x08 = some .decisionPoint
    decide
  · show selectRow 0x04 = some .sourceError
    decide
  · show selectRow 0x02 = some .fill
    decide
  · show selectRow 0x00 = some .idle
    decide

/-- The frame bytes at the front of a byte sequence. -/
@[simp] theorem takeFrame_append (f : Frame) (rest : List Byte) : takeFrame (f.toList ++ rest) = some (f, rest) := by
  unfold takeFrame
  rw [dif_pos (by simp)]
  simp only [Option.some.injEq, Prod.mk.injEq]
  constructor
  · apply Vector.ext
    intro i hi
    simp [List.getElem_append_left]
  · rw [List.drop_append_of_le_length (by simp)]
    simp

@[simp] theorem takeFrame_toList (f : Frame) : takeFrame f.toList = some (f, []) := by
  simpa using takeFrame_append f []

/-- A frame taken from a byte sequence is its first 32 bytes. -/
theorem takeFrame_eq_some {bs rest : List Byte} {f : Frame} : takeFrame bs = some (f, rest) ↔ bs = f.toList ++ rest := by
  constructor
  · intro h
    unfold takeFrame at h
    split at h
    · rename_i hl
      simp only [Option.some.injEq, Prod.mk.injEq] at h
      obtain ⟨rfl, rfl⟩ := h
      apply List.ext_getElem
      · simp
        omega
      · intro i h1 h2
        by_cases hi : i < 32
        · rw [List.getElem_append_left (by simpa using hi)]
          simp
        · rw [List.getElem_append_right (by simpa using hi)]
          simp only [Vector.length_toList, List.getElem_drop]
          congr 1
          omega
    · cases h
  · rintro rfl
    exact takeFrame_append f rest

theorem takeFrame_eq_none {bs : List Byte} : takeFrame bs = none ↔ bs.length < 32 := by
  unfold takeFrame
  split <;> simp <;> omega

end Sys2Proof
end

