-- ==== Sys2Proof/Laws/PerInstr.lean ====
section
/-! SUPPORT. The shape of every operation's encoding, one lemma for each constructor. -/

namespace Sys2Proof.Laws.EncodeShape

/-- The number of operand bytes of a row: a frame, the input byte, or none (30_encoding.md R80). -/
def operandLength : SelOp → Nat
  | .decisionPoint => 32
  | .fill => 1
  | .reset => 0
  | .faultHold => 0
  | .outAccept => 0
  | .outWait => 0
  | .sourceError => 0
  | .idle => 0

/-- An operation's encoding begins with a selection byte of its own row, bit 7 clear, and has its row's number of operand bytes behind
it (30_encoding.md R80, R86). -/
def Statement (i : Instr) : Prop :=
  (encode i).head? = some (selByte i.selPattern) ∧ (selByte i.selPattern).getLsbD 7 = false ∧
  selectRow i.selPattern = some i.selOp ∧ (encode i).length = 1 + operandLength i.selOp

theorem reset : Statement .reset := ⟨rfl, by decide, by decide, rfl⟩

theorem faultHold : Statement .faultHold := ⟨rfl, by decide, by decide, rfl⟩

theorem outAccept : Statement .outAccept := ⟨rfl, by decide, by decide, rfl⟩

theorem outWait : Statement .outWait := ⟨rfl, by decide, by decide, rfl⟩

/-- The encoding of a decision point is its selection byte and its frame. -/
theorem frame_length (f : Frame) : (selByte 0x08 :: f.toList).length = 1 + 32 := by simp

theorem decOk (f : Frame) : Statement (.decOk f) :=
  ⟨rfl, by show (selByte 0x08).getLsbD 7 = false; decide, by show selectRow 0x08 = some .decisionPoint; decide, frame_length f⟩

theorem decBadChecksum (f : Frame) : Statement (.decBadChecksum f) :=
  ⟨rfl, by show (selByte 0x08).getLsbD 7 = false; decide, by show selectRow 0x08 = some .decisionPoint; decide, frame_length f⟩

theorem decBadStart (f : Frame) : Statement (.decBadStart f) :=
  ⟨rfl, by show (selByte 0x08).getLsbD 7 = false; decide, by show selectRow 0x08 = some .decisionPoint; decide, frame_length f⟩

theorem sourceError : Statement .sourceError := ⟨rfl, by decide, by decide, rfl⟩

theorem fill (b : Byte) : Statement (.fill b) :=
  ⟨rfl, by show (selByte 0x02).getLsbD 7 = false; decide, by show selectRow 0x02 = some .fill; decide, rfl⟩

theorem idle : Statement .idle := ⟨rfl, by decide, by decide, rfl⟩

end Sys2Proof.Laws.EncodeShape
end

