-- ==== Sys2Proof/Laws/Step.lean ====
section
/-! SUPPORT. The selection of a step in words, and the inversion of a step: which next states each operation gives. -/

namespace Sys2Proof.Machine

/-- The row a selection vector picks, bit by bit in priority order (60_exceptions.md R207). -/
theorem selectRow_bits : ∀ a b c d e f g : Bool,
    selectRow (BitVec.ofBool a ++ BitVec.ofBool b ++ BitVec.ofBool c ++ BitVec.ofBool d ++ BitVec.ofBool e ++
      BitVec.ofBool f ++ BitVec.ofBool g) =
    some (if a then .reset else if b then .faultHold else if c then (if g then .outAccept else .outWait)
      else if d then .decisionPoint else if e then .sourceError else if f then .fill else .idle) := by decide

/-- The row of a step (30_encoding.md R85, R86). -/
theorem selectRow_selVector (i : Input) (s : State) :
    selectRow (selVector i s) =
    some (if i.rst then .reset else if s.fault then .faultHold
      else if s.outValid then (if i.outReady then .outAccept else .outWait)
      else if s.full then .decisionPoint else if i.inError then .sourceError else if i.inValid then .fill else .idle) :=
  selectRow_bits _ _ _ _ _ _ _

/-- The operation of a step, in the words of 60_exceptions.md R207. -/
theorem selectedOp_eq (s : State) :
    selectedOp s =
      if s.nextInput.rst then some .reset
      else if s.fault then some .faultHold
      else if s.outValid then (if s.nextInput.outReady then some .outAccept else some .outWait)
      else if s.full then
        (match snapshot s with
          | .ok f => some (classifyFrame f)
          | .error _ => none)
      else if s.nextInput.inError then some .sourceError
      else if s.nextInput.inValid then some (.fill s.nextInput.inByte)
      else some .idle := by
  have row := selectRow_selVector s.nextInput s
  unfold selectedOp fetchOp
  cases h1 : s.nextInput.rst
  · cases h2 : s.fault
    · cases h3 : s.outValid
      · cases h4 : s.full
        · cases h5 : s.nextInput.inError
          · cases h6 : s.nextInput.inValid <;> simp only [h1, h2, h3, h4, h5, h6] at row <;> simp [row, decode]
          · simp only [h1, h2, h3, h4, h5] at row
            simp [row, decode]
        · simp only [h1, h2, h3, h4] at row
          simp only [Bool.false_eq_true, if_false, if_true] at row
          rw [row]
          cases snapshot s <;> simp [decode, row]
      · cases h4 : s.nextInput.outReady <;> simp only [h1, h2, h3, h4] at row <;> simp [row, decode]
    · simp only [h1, h2] at row
      simp [row, decode]
  · simp only [h1] at row
    simp [row, decode]

theorem State.full_iff (s : State) : s.full = true ↔ s.cnt = 32 := by simp [State.full]

/-- Everything a selected operation says of the inputs and the state it was selected in. -/
theorem selectedOp_cases {s : State} {i : Instr} (h : selectedOp s = some i) :
    (i = .reset ∧ s.nextInput.rst = true) ∨
    (s.nextInput.rst = false ∧
      ((i = .faultHold ∧ s.fault = true) ∨
       (s.fault = false ∧
         ((i = .outAccept ∧ s.outValid = true ∧ s.nextInput.outReady = true) ∨
          (i = .outWait ∧ s.outValid = true ∧ s.nextInput.outReady = false) ∨
          (s.outValid = false ∧
            ((s.cnt = 32 ∧ ∃ f, snapshot s = .ok f ∧ i = classifyFrame f) ∨
             (s.cnt ≠ 32 ∧
               ((i = .sourceError ∧ s.nextInput.inError = true) ∨
                (s.nextInput.inError = false ∧
                  ((i = .fill s.nextInput.inByte ∧ s.nextInput.inValid = true) ∨
                   (i = .idle ∧ s.nextInput.inValid = false))))))))))) := by
  rw [selectedOp_eq] at h
  have hf := State.full_iff s
  cases h1 : s.nextInput.rst
  · cases h2 : s.fault
    · cases h3 : s.outValid
      · cases h4 : s.full
        · have h4' : s.cnt ≠ 32 := fun e => by simp [hf.mpr e] at h4
          cases h5 : s.nextInput.inError
          · cases h6 : s.nextInput.inValid <;> simp [h1, h2, h3, h4, h5, h6] at h <;> subst h <;> simp <;> exact .inr h4'
          · simp [h1, h2, h3, h4, h5] at h
            subst h
            simp
            exact .inr h4'
        · have h4' : s.cnt = 32 := hf.mp h4
          simp only [h1, h2, h3, h4, if_true, Bool.false_eq_true, if_false] at h
          cases hs : snapshot s with
          | error e => simp [hs] at h
          | ok f =>
            simp only [hs, Option.some.injEq] at h
            simp [h4', h.symm]
      · cases h4 : s.nextInput.outReady <;> simp [h1, h2, h3, h4] at h <;> subst h <;> simp
    · simp [h1, h2] at h
      subst h
      simp
  · simp [h1] at h
    subst h
    simp

/-- Everything a step can do: for each operation, the conditions under which it is taken and the state it gives. -/
theorem step_cases {s t : State} (h : step s = .next t) :
    (selectedOp s = some .reset ∧ s.nextInput.rst = true ∧ t = restart s.beginStep) ∨
    (selectedOp s = some .faultHold ∧ s.fault = true ∧ t = s.beginStep) ∨
    (selectedOp s = some .outAccept ∧ s.fault = false ∧ s.outValid = true ∧
      t = (s.beginStep.setDelivered s.O).setOutValid false) ∨
    (selectedOp s = some .outWait ∧ s.fault = false ∧ s.outValid = true ∧ t = s.beginStep) ∨
    (∃ f, selectedOp s = some (.decOk f) ∧ s.fault = false ∧ s.outValid = false ∧ s.cnt = 32 ∧ snapshot s = .ok f ∧
      f[0] = Config.startByte ∧ frameChecksum f = frameSum f ∧ t = decOkState f s.beginStep) ∨
    (∃ f, selectedOp s = some (.decBadChecksum f) ∧ s.fault = false ∧ s.outValid = false ∧ s.cnt = 32 ∧ snapshot s = .ok f ∧
      f[0] = Config.startByte ∧ frameChecksum f ≠ frameSum f ∧ t = slideState .invalidChecksum s.beginStep) ∨
    (∃ f, selectedOp s = some (.decBadStart f) ∧ s.fault = false ∧ s.outValid = false ∧ s.cnt = 32 ∧ snapshot s = .ok f ∧
      f[0] ≠ Config.startByte ∧ t = slideState .invalidStartByte s.beginStep) ∨
    (selectedOp s = some .sourceError ∧ s.fault = false ∧ s.outValid = false ∧ s.cnt ≠ 32 ∧
      t = raiseSourceError s.beginStep) ∨
    (∃ b, selectedOp s = some (.fill b) ∧ s.fault = false ∧ s.outValid = false ∧ s.cnt.toNat < 32 ∧
      t = (s.beginStep.setWindow (s.W.write s.cnt.toNat b) (s.cnt + 1)).setConsumed) ∨
    (selectedOp s = some .idle ∧ s.fault = false ∧ s.outValid = false ∧ s.cnt ≠ 32 ∧ t = s.beginStep) := by
  obtain ⟨i, hi, he⟩ := step_next h
  rcases selectedOp_cases hi with ⟨rfl, h1⟩ | ⟨h1, ⟨rfl, h2⟩ | ⟨h2, ⟨rfl, h3, _⟩ | ⟨rfl, h3, _⟩ | ⟨h3, ⟨h4, f, hs, rfl⟩ | ⟨h4,
    ⟨rfl, _⟩ | ⟨_, ⟨rfl, _⟩ | ⟨rfl, _⟩⟩⟩⟩⟩⟩
  · simp only [exec, execReset_eq, Host.Outcome.next.injEq] at he
    exact .inl ⟨hi, h1, he.symm⟩
  · simp only [exec, execFaultHold_eq, Host.Outcome.next.injEq] at he
    exact .inr (.inl ⟨hi, h2, he.symm⟩)
  · simp only [exec, execOutAccept_next, State.beginStep_outValid, State.beginStep_O] at he
    exact .inr (.inr (.inl ⟨hi, h2, h3, he.2⟩))
  · simp only [exec, execOutWait_eq, Host.Outcome.next.injEq] at he
    exact .inr (.inr (.inr (.inl ⟨hi, h2, h3, he.symm⟩)))
  · rcases classifyFrame_cases f with ⟨a, c, g⟩ | ⟨a, c, g⟩ | ⟨a, g⟩
    · rw [g] at hi he
      simp only [exec, execDecOk_eq, Host.Outcome.next.injEq] at he
      exact .inr (.inr (.inr (.inr (.inl ⟨f, hi, h2, h3, h4, hs, a, c, he.symm⟩))))
    · rw [g] at hi he
      simp only [exec, execDecBadChecksum_next] at he
      exact .inr (.inr (.inr (.inr (.inr (.inl ⟨f, hi, h2, h3, h4, hs, a, c, he.2⟩)))))
    · rw [g] at hi he
      simp only [exec, execDecBadStart_next] at he
      exact .inr (.inr (.inr (.inr (.inr (.inr (.inl ⟨f, hi, h2, h3, h4, hs, a, he.2⟩))))))
  · simp only [exec, execSourceError_eq, Host.Outcome.next.injEq] at he
    exact .inr (.inr (.inr (.inr (.inr (.inr (.inr (.inl ⟨hi, h2, h3, h4, he.symm⟩)))))))
  · simp only [exec, execFill_next, State.beginStep_cnt, State.beginStep_W] at he
    exact .inr (.inr (.inr (.inr (.inr (.inr (.inr (.inr (.inl ⟨_, hi, h2, h3, he.1, he.2⟩))))))))
  · simp only [exec, execIdle_eq, Host.Outcome.next.injEq] at he
    exact .inr (.inr (.inr (.inr (.inr (.inr (.inr (.inr (.inr ⟨hi, h2, h3, h4, he.symm⟩))))))))

end Sys2Proof.Machine
end

