-- ==== Sys2Proof/Laws/Run.lean ====
section
/-! SUPPORT. What one more step adds to the terms of a run, and the arithmetic of the two counters. -/

namespace Sys2Proof.Machine

/-! ### The counters -/

theorem cnt_succ_toNat {n : BitVec 6} (h : n.toNat < 32) : (n + 1).toNat = n.toNat + 1 := by
  rw [BitVec.toNat_add]
  simp
  omega

/-- The saturating count (10_state.md R37). -/
theorem saturatingSucc_toNat (n : BitVec 32) : (saturatingSucc n).toNat = min (n.toNat + 1) (2 ^ 32 - 1) := by
  unfold saturatingSucc
  have hn := n.isLt
  split
  · next h => subst h; rfl
  · next h =>
    have hne : n.toNat ≠ 4294967295 := fun e => h (BitVec.eq_of_toNat_eq (by simpa using e))
    rw [BitVec.toNat_add]
    simp
    omega

theorem saturatingSucc_ne_zero (n : BitVec 32) : saturatingSucc n ≠ 0 := by
  intro e
  have h := congrArg BitVec.toNat e
  rw [saturatingSucc_toNat] at h
  simp at h

/-! ### One more step of a run -/

theorem consumedBytes_snoc (h : List Event) (e : Event) : consumedBytes (h ++ [e]) = consumedBytes h ++ e.consumedByte.toList := by
  simp only [consumedBytes, List.filterMap_append, List.filterMap_cons, List.filterMap_nil]
  cases e.consumedByte <;> rfl

theorem deliveredFrames_snoc (h : List Event) (e : Event) :
    deliveredFrames (h ++ [e]) = deliveredFrames h ++ e.out.delivered.toList := by
  simp only [deliveredFrames, List.filterMap_append, List.filterMap_cons, List.filterMap_nil]
  cases e.out.delivered <;> rfl

theorem oneSession_snoc {h : List Event} {e : Event} :
    oneSession (h ++ [e]) ↔ oneSession h ∧ e.op ≠ .reset ∧ e.op ≠ .sourceError := by
  simp only [oneSession, List.mem_append, List.mem_singleton, or_imp, forall_and, forall_eq]
  tauto

theorem okFrames_append (a b : List Decision) : okFrames (a ++ b) = okFrames a ++ okFrames b := by simp [okFrames]

theorem bytesSinceFresh_snoc (h : List Event) (e : Event) :
    bytesSinceFresh (h ++ [e]) =
      match e.op with
      | .fill b => bytesSinceFresh h ++ [b]
      | .reset => []
      | .decOk _ => []
      | _ => bytesSinceFresh h := by
  obtain ⟨op, out⟩ := e
  cases op <;> simp only [bytesSinceFresh, List.foldl_append, List.foldl_cons, List.foldl_nil]

/-- The decision an operation takes, if any, when `n` bytes have been consumed. -/
def decisionOf (n : Nat) : Instr → List Decision
  | .decOk f => [⟨n - 32, f, .ok (extractFields f)⟩]
  | .decBadStart f => [⟨n - 32, f, .error .invalidStartByte⟩]
  | .decBadChecksum f => [⟨n - 32, f, .error .invalidChecksum⟩]
  | .reset => []
  | .faultHold => []
  | .outAccept => []
  | .outWait => []
  | .sourceError => []
  | .fill _ => []
  | .idle => []

theorem decisionsFrom_snoc (n : Nat) (h : List Event) (e : Event) :
    decisionsFrom n (h ++ [e]) = decisionsFrom n h ++ decisionOf (n + (consumedBytes h).length) e.op := by
  induction h generalizing n with
  | nil => obtain ⟨op, out⟩ := e; cases op <;> simp [decisionsFrom, decisionOf, consumedBytes]
  | cons a h ih =>
    have hc : consumedBytes (a :: h) = a.consumedByte.toList ++ consumedBytes h := by
      simp only [consumedBytes, List.filterMap_cons]
      cases a.consumedByte <;> rfl
    obtain ⟨op, out⟩ := a
    cases op <;> simp only [List.cons_append, decisionsFrom, ih, hc, Event.consumedByte] <;> simp
    congr 1
    omega

theorem decisions_snoc (h : List Event) (e : Event) :
    decisions (h ++ [e]) = decisions h ++ decisionOf (consumedBytes h).length e.op := by
  simp [decisions, decisionsFrom_snoc]

end Sys2Proof.Machine
end

