-- ==== Sys2Proof/Laws/Stream.lean ====
section
/-! SUPPORT. What a window holds of a byte stream, and how the scan of a stream goes on when bytes are added. -/

namespace Sys2Proof.Machine

/-! ### The window and a stream -/

theorem State.holdsLast_iff (t : State) (s : List Byte) :
    t.holdsLast s ↔ t.cnt.toNat ≤ 32 ∧ t.cnt.toNat ≤ s.length ∧ t.W = Memory.ofBytes (s.drop (s.length - t.cnt.toNat)) := by
  constructor
  · rintro ⟨w, l, c⟩
    refine ⟨w.2, l, ?_⟩
    obtain ⟨bs, e, lb, _⟩ := (State.windowFilled_iff t).mp w
    rw [e]
    congr 1
    apply List.ext_getElem?
    intro i
    rw [← State.cell_ofBytes e lb, c]
  · rintro ⟨w, l, e⟩
    have lb : (s.drop (s.length - t.cnt.toNat)).length = t.cnt.toNat := by
      simp
      omega
    exact ⟨(State.windowFilled_iff t).mpr ⟨_, e, lb, by omega⟩, l, State.cell_ofBytes e lb⟩

/-- An operation that leaves the window leaves what it holds. -/
theorem State.holdsLast_of_same {t u : State} {s : List Byte} (h : t.holdsLast s) (hw : u.W = t.W) (hc : u.cnt = t.cnt) :
    u.holdsLast s := by
  rw [State.holdsLast_iff] at *
  rw [hw, hc]
  exact h

/-- An empty window holds the last no bytes of any stream. -/
theorem State.holdsLast_of_empty {u : State} (s : List Byte) (hw : u.W = []) (hc : u.cnt = 0) : u.holdsLast s := by
  rw [State.holdsLast_iff, hw, hc]
  simp
  rfl

/-- A push adds the byte to the stream (40_byte_window.md R110). -/
theorem State.holdsLast_of_push {t u : State} {s : List Byte} {b : Byte} (h : t.holdsLast s) (hlt : t.cnt.toNat < 32)
    (hw : u.W = t.W.write t.cnt.toNat b) (hc : u.cnt = t.cnt + 1) : u.holdsLast (s ++ [b]) := by
  rw [State.holdsLast_iff] at *
  obtain ⟨h1, h2, h3⟩ := h
  rw [hw, hc, cnt_succ_toNat hlt]
  refine ⟨by omega, by rw [List.length_append]; simp; omega, ?_⟩
  have lb : (s.drop (s.length - t.cnt.toNat)).length = t.cnt.toNat := by
    simp
    omega
  have hwrite := Memory.write_ofBytes (s.drop (s.length - t.cnt.toNat)) b
  rw [lb] at hwrite
  rw [h3, hwrite, List.length_append, List.length_singleton,
    show s.length + 1 - (t.cnt.toNat + 1) = s.length - t.cnt.toNat by omega, List.drop_append_of_le_length (by omega)]

/-- A slide of a full window leaves the stream (40_byte_window.md R111). -/
theorem State.holdsLast_of_slide {t u : State} {s : List Byte} (h : t.holdsLast s) (hfull : t.cnt = 32) (hw : u.W = t.W.shiftDown)
    (hc : u.cnt = 31) : u.holdsLast s := by
  rw [State.holdsLast_iff] at *
  rw [hfull] at h
  obtain ⟨h1, h2, h3⟩ := h
  simp at h2 h3
  rw [hw, hc, h3, Memory.shiftDown_ofBytes, List.tail_drop]
  refine ⟨by decide, by simp; omega, ?_⟩
  simp
  congr 2
  omega

/-- The snapshot of a full window is the last 32 bytes of the stream. -/
theorem State.holdsLast_snapshot {t : State} {s : List Byte} {f : Frame} (h : t.holdsLast s) (hfull : t.cnt = 32)
    (hs : snapshot t = .ok f) : s.drop (s.length - 32) = f.toList := by
  obtain ⟨_, l, c⟩ := h
  rw [show t.cnt.toNat = 32 by rw [hfull]; rfl] at l c
  apply List.ext_getElem
  · simp
    omega
  · intro i h1 h2
    have hi := (snapshot_eq_ok t f).mp hs ⟨i, by simpa using h2⟩
    rw [c, List.getElem?_eq_getElem h1] at hi
    simpa using hi

/-! ### The scan -/

theorem takeFrame_more {s u rest : List Byte} {f : Frame} (h : takeFrame s = some (f, rest)) :
    takeFrame (s ++ u) = some (f, rest ++ u) := by
  rw [takeFrame_eq_some] at *
  rw [h, List.append_assoc]

theorem decodeAt_append {s u : List Byte} {j : Nat} {r : Except FrameDecodeError SensorFrame} (h : decodeAt s j = some r) :
    decodeAt (s ++ u) j = some r := by
  unfold decodeAt at *
  cases ht : takeFrame (s.drop j) with
  | none => simp [ht] at h
  | some p =>
    have hl := congrArg List.length (takeFrame_eq_some.mp ht)
    simp at hl
    rw [List.drop_append_of_le_length (by omega), takeFrame_more ht]
    simpa [ht] using h

theorem scanFrom_short {n p : Nat} {s : List Byte} (h : s.length < 32) : scanFrom n p s = ([], s) := by
  cases n with
  | zero => rfl
  | succ n => simp [scanFrom, takeFrame_eq_none.mpr h]

theorem scanFrom_ok {n p : Nat} {f : Frame} {v : SensorFrame} (h : frameDecode f = .ok v) :
    scanFrom (n + 1) p f.toList = ([⟨p, f, .ok v⟩], []) := by
  simp only [scanFrom, takeFrame_toList, h]
  rw [scanFrom_short (by simp)]

theorem scanFrom_error {n p : Nat} {f : Frame} {e : FrameDecodeError} (h : frameDecode f = .error e) :
    scanFrom (n + 1) p f.toList = ([⟨p, f, .error e⟩], f.toList.tail) := by
  simp only [scanFrom, takeFrame_toList, h]
  rw [scanFrom_short (by simp)]

/-- As many turns as there are bytes are enough. -/
theorem scanFrom_turns : ∀ (k k' p : Nat) (s : List Byte), s.length ≤ k → s.length ≤ k' → scanFrom k p s = scanFrom k' p s := by
  intro k
  induction k with
  | zero =>
    intro k' p s h _
    rw [scanFrom_short (by omega), scanFrom_short (by omega)]
  | succ k ih =>
    intro k' p s h h'
    by_cases hs : s.length < 32
    · rw [scanFrom_short hs, scanFrom_short hs]
    · cases k' with
      | zero => omega
      | succ k' =>
        simp only [scanFrom]
        cases ht : takeFrame s with
        | none => rfl
        | some fr =>
          have hl := congrArg List.length (takeFrame_eq_some.mp ht)
          simp at hl
          simp only
          rw [ih k' (p + 32) fr.2 (by omega) (by omega), ih k' (p + 1) s.tail (by simp; omega) (by simp; omega)]

/-- With bytes added, the scan goes on where it stopped. -/
theorem scanFrom_append : ∀ (k p : Nat) (s u : List Byte) (k' k'' : Nat), s.length ≤ k → (s ++ u).length ≤ k' →
    ((scanFrom k p s).2 ++ u).length ≤ k'' →
    scanFrom k' p (s ++ u) =
      ((scanFrom k p s).1 ++ (scanFrom k'' (p + s.length - (scanFrom k p s).2.length) ((scanFrom k p s).2 ++ u)).1,
        (scanFrom k'' (p + s.length - (scanFrom k p s).2.length) ((scanFrom k p s).2 ++ u)).2) := by
  intro k
  induction k with
  | zero =>
    intro p s u k' k'' h h' h''
    simp only [scanFrom] at *
    simp
    exact scanFrom_turns _ _ _ _ (by simpa using h') (by simpa using h'')
  | succ k ih =>
    intro p s u k' k'' h h' h''
    cases ht : takeFrame s with
    | none =>
      have e : scanFrom (k + 1) p s = ([], s) := by simp [scanFrom, ht]
      rw [e] at h'' ⊢
      simp
      exact scanFrom_turns _ _ _ _ (by simpa using h') (by simpa using h'')
    | some fr =>
      obtain ⟨f, rest⟩ := fr
      have hl := congrArg List.length (takeFrame_eq_some.mp ht)
      simp at hl
      have hne : s ≠ [] := by
        intro e0
        rw [e0] at hl
        simp at hl
        omega
      have ht' := takeFrame_more (u := u) ht
      cases k' with
      | zero =>
        rw [List.length_append] at h'
        omega
      | succ k' =>
        cases hd : frameDecode f with
        | ok v =>
          have e : scanFrom (k + 1) p s = (⟨p, f, .ok v⟩ :: (scanFrom k (p + 32) rest).1, (scanFrom k (p + 32) rest).2) := by
            simp [scanFrom, ht, hd]
          rw [e] at h'' ⊢
          have more := ih (p + 32) rest u k' k'' (by omega) (by rw [List.length_append] at h' ⊢; omega) h''
          simp only [scanFrom, ht', hd, more]
          rw [show p + 32 + rest.length = p + s.length by omega]
          rfl
        | error er =>
          have e : scanFrom (k + 1) p s = (⟨p, f, .error er⟩ :: (scanFrom k (p + 1) s.tail).1, (scanFrom k (p + 1) s.tail).2) := by
            simp [scanFrom, ht, hd]
          rw [e] at h'' ⊢
          have more := ih (p + 1) s.tail u k' k'' (by simp; omega) (by simp at h' ⊢; omega) h''
          simp only [scanFrom, ht', hd]
          rw [List.tail_append_of_ne_nil hne, more, show p + 1 + s.tail.length = p + s.length by simp; omega]
          rfl

end Sys2Proof.Machine
end

