-- ==== Sys2Proof/Tests/Slice0.lean ====
section
/-! SUPPORT. Tests, with the results that spec/95_test_vectors.md and the encodings of spec/30_encoding.md give, and the witnesses that the
hypotheses of the statements can be met. -/

namespace Sys2Proof.Tests

open Sys2Proof Sys2Proof.Machine

/-! ### Helpers -/

/-- The frame S1 of 95_test_vectors.md. -/
def s1 : Frame :=
  #v[0x42, 0x4D, 0x00, 0x1C, 0x00, 0x00, 0x00, 0x00, 0x00, 0x00, 0x00, 0x00, 0x00, 0x00, 0x00, 0x00,
     0x00, 0x96, 0x00, 0x30, 0x00, 0x10, 0x00, 0x02, 0x00, 0x00, 0x00, 0x00, 0x97, 0x00, 0x02, 0x1A]

/-- S2: S1 with byte 31 = 0D. -/
def s2 : Frame := s1.set 31 0x0D

/-- S3: S1 with byte 0 = 00. -/
def s3 : Frame := s1.set 0 0x00

/-- Z, the smallest valid frame. -/
def z : Frame := ((Vector.replicate 32 0x00).set 0 0x42).set 31 0x42

/-- X, the largest valid frame. -/
def x : Frame := (((Vector.replicate 32 0xFF).set 0 0x42).set 30 0x1D).set 31 0x25

/-- The frame of vector V-C1. -/
def s1Fields : SensorFrame := #v[28, 0, 0, 0, 0, 0, 0, 150, 48, 16, 2, 0, 0, 38656, 538]

/-- A state `(cnt, out_valid, fault, resync_count, last_result)` with the given window. -/
def st (w : List Byte) (ov fl : Bool) (rc : BitVec 32) (lr : ResultCode) : State :=
  { State.reset with
    W := Memory.ofBytes w, cnt := BitVec.ofNat 6 w.length, outValid := ov, fault := fl, resyncCount := rc, lastResult := lr,
    O := s1Fields }

/-- An input record `(rst, in_valid, in_byte, in_error, out_ready)`. -/
def inp (rst valid : Bool) (b : Byte) (err ready : Bool) : Input :=
  { rst := rst, inValid := valid, inByte := b, inError := err, outReady := ready }

/-- The step of a state with an input record answers a next state of which `p` holds. -/
def after (s : State) (i : Input) (p : State → Bool) : Bool :=
  match step (s.withInput i) with
  | .next t => p t
  | .fault _ => false
  | .refused _ => false

/-- The outcome is a next state. -/
def isNext (o : Host.Outcome State Fault Refusal) : Bool :=
  match o with
  | .next _ => true
  | .fault _ => false
  | .refused _ => false

theorem answers {o : Host.Outcome State Fault Refusal} (h : isNext o = true) : ∃ t, o = .next t := by
  cases o <;> simp_all [isNext]

/-! ### WellFormed: an ill-formed term for each check, which the check refuses -/

theorem test_wf_decOk_wrong_start : (Instr.decOk s3).wellFormed = false := by decide
theorem test_wf_decOk_wrong_checksum : (Instr.decOk s2).wellFormed = false := by decide
theorem test_wf_badChecksum_wrong_start : (Instr.decBadChecksum s3).wellFormed = false := by decide
theorem test_wf_badChecksum_right_checksum : (Instr.decBadChecksum s1).wellFormed = false := by decide
theorem test_wf_badStart_right_start : (Instr.decBadStart s2).wellFormed = false := by decide

/-! ### Decoding: words written out from the operation map (30_encoding.md R86, R87) -/

-- `1xxxxxx`
theorem test_decode_reset : decode [0b01000000] = .ok (.reset, []) ∧ decode [0b01111111] = .ok (.reset, []) := by decide
-- `01xxxxx`
theorem test_decode_faultHold : decode [0b00100000] = .ok (.faultHold, []) ∧ decode [0b00111111] = .ok (.faultHold, []) := by decide
-- `001xxx1`
theorem test_decode_outAccept : decode [0b00010001] = .ok (.outAccept, []) ∧ decode [0b00011111] = .ok (.outAccept, []) := by decide
-- `001xxx0`
theorem test_decode_outWait : decode [0b00010000] = .ok (.outWait, []) ∧ decode [0b00011110] = .ok (.outWait, []) := by decide
-- `00001xx`
theorem test_decode_sourceError : decode [0b00000100] = .ok (.sourceError, []) ∧ decode [0b00000111] = .ok (.sourceError, []) := by decide
-- `000001x` and the input byte
theorem test_decode_fill :
    decode [0b00000010, 0xA5] = .ok (.fill 0xA5, []) ∧ decode [0b00000011, 0x42] = .ok (.fill 0x42, []) := by decide
-- `000000x`
theorem test_decode_idle : decode [0b00000000] = .ok (.idle, []) ∧ decode [0b00000001] = .ok (.idle, []) := by decide
-- `0001xxx` and the frame
theorem test_decode_decOk : decode (0b00001000 :: s1.toList) = .ok (.decOk s1, []) := by decide
theorem test_decode_decBadChecksum : decode (0b00001111 :: s2.toList) = .ok (.decBadChecksum s2, []) := by decide
theorem test_decode_decBadStart : decode (0b00001001 :: s3.toList) = .ok (.decBadStart s3, []) := by decide

/-- What is no operation's bytes is refused by name. -/
theorem test_decode_refuses :
    decode [] = .error .noBytes ∧ decode [0x80] = .error .selectionBit7 ∧ decode [0x02] = .error .noInputByte ∧
    decode (0x08 :: List.replicate 31 0x42) = .error .shortFrame := by decide

/-- A decision word with its frame above the selection byte, first byte lowest. -/
theorem test_decodeTableWord_frame :
    decodeTableWord 264 (0x08 + 256 * s1.toList.foldr (fun b n => b.toNat + 256 * n) 0) = some (.decOk s1) := by decide

/-- The words of the table's rows, placed by `withFetchWord`, are what the next step takes. -/
theorem test_withFetchWord :
    [0x40, 0x20, 0x11, 0x10, 0x08, 0x04, 0x02, 0x00].map (fun w => selectedOp (State.reset.withFetchWord 8 w)) =
    [some .reset, some .faultHold, some .outAccept, some .outWait, some (.decBadStart (Vector.replicate 32 0)), some .sourceError,
      some (.fill 0), some .idle] := by decide

theorem test_withFetchWord_frame :
    isNext (step (State.reset.withFetchWord 264 (0x08 + 256 * s1.toList.foldr (fun b n => b.toNat + 256 * n) 0))) = true := by decide

/-! ### Frame Codec: vectors V-P and V-C -/

theorem test_be_u16 : beU16 0x02 0x1A = 538 ∧ beU16 0x1A 0x02 = 6658 ∧ beU16 0x97 0x00 = 38656 := by decide
theorem test_wrapping_sum_largest_frame : frameSum x = 7461 := by decide
set_option maxRecDepth 4000 in
theorem test_wrapping_sum_wraps : wrappingSum (List.replicate 258 0xFF) = 254 := by decide
theorem test_codec_ok : frameDecode s1 = .ok s1Fields := by decide
theorem test_codec_bad_checksum : frameDecode s2 = .error .invalidChecksum := by decide
-- V-C12
theorem test_codec_matching_checksum_bad_start : frameDecode ((s1.set 0 0x43).set 31 0x1B) = .error .invalidStartByte := by decide
-- V-C6
theorem test_codec_swapped_checksum : frameDecode ((s1.set 30 0x1A).set 31 0x02) = .error .invalidChecksum := by decide
-- V-C16
theorem test_codec_moved_byte :
    frameDecode ((s1.set 16 0x96).set 17 0x00) = .ok ((s1Fields.set 7 38400)) := by decide

/-! ### Steps: vectors V-O -/

-- V-O2
theorem test_fill_last_byte : after (st (s1.toList.take 31) false false 0 .none) (inp false true 0x1A false true)
    (fun t => t.status == 0x0800 && t.out.consumed && t.cell 31 == some 0x1A && t.cell 30 == some 0x02) = true := by decide
-- V-O3
theorem test_fill_ignores_out_ready : after (st (s1.toList.take 5) false false 0 .none) (inp false true 0x42 false false)
    (fun t => t.status == 0x0180 && t.out.consumed) = true := by decide
-- V-O5
theorem test_idle : after (st (s1.toList.take 7) false false 0 .none) (inp false false 0 false false)
    (fun t => t.status == 0x01C0 && t.out == { inReady := true, consumed := false, delivered := none, evt := none }) = true := by decide
-- V-O6
theorem test_decOk : after (st s1.toList false false 3 .invalidStartByte) (inp false false 0 false true)
    (fun t => t.status == 0x0009 && t.readO == some s1Fields && t.evtCode == some 1 && t.out.delivered == none) = true := by decide
-- V-O11
theorem test_decOk_ignores_error : after (st s1.toList false false 0 .none) (inp false false 0 true true)
    (fun t => t.status == 0x0009 && t.evtCode == some 1) = true := by decide
-- V-O8
theorem test_decBadStart : after (st s3.toList false false 0 .none) (inp false false 0 false true)
    (fun t => t.status == 0x07D4 && t.evtCode == some 2 && t.cell 0 == some 0x4D && t.cell 30 == some 0x1A && t.cell 31 == none) = true := by
  decide
-- V-O10
theorem test_decBadStart_saturates : after (st s3.toList false false 4294967295 .invalidStartByte) (inp false false 0 false true)
    (fun t => t.status == 0x07D4 && t.resyncCount == 4294967295) = true := by decide
-- V-O9
theorem test_decBadChecksum : after (st s2.toList false false 5 .invalidChecksum) (inp false false 0 false true)
    (fun t => t.status == 0x07DC && t.resyncCount == 6 && t.evtCode == some 3 && t.cell 0 == some 0x4D) = true := by decide
-- V-O13
theorem test_outAccept : after (st [] true false 0 .ok) (inp false true 0x42 false true)
    (fun t => t.status == 0x0008 && t.out.delivered == some s1Fields && !t.out.consumed && t.readO == none) = true := by decide
-- V-O15
theorem test_outWait_ignores_error : after (st [] true false 0 .ok) (inp false false 0 true false)
    (fun t => t.status == 0x0009 && t.readO == some s1Fields && t.out.delivered == none && t.out.evt == none) = true := by decide
-- V-O17
theorem test_sourceError_beats_byte : after (st (s1.toList.take 10) false false 0 .none) (inp false true 0x42 true true)
    (fun t => t.status == 0x02A2 && !t.out.consumed && t.evtCode == some 4) = true := by decide
-- V-O18
theorem test_sourceError_keeps_count : after (st (s1.toList.take 31) false false 1 .invalidStartByte) (inp false false 0 true true)
    (fun t => t.status == 0x07E6 && t.resyncCount == 1) = true := by decide
-- V-O20
theorem test_faultHold : after (st (s1.toList.take 10) false true 0 .sourceError) (inp false false 0 true true)
    (fun t => t.status == 0x02A2 && t.out.evt == none) = true := by decide
-- V-O22
theorem test_reset_discards_frame : after (st [] true false 0 .ok) (inp true false 0 false true)
    (fun t => t.status == 0x0000 && t.out.delivered == none && t.readO == none) = true := by decide
-- V-O24
theorem test_reset_beats_byte : after (st (s1.toList.take 5) false false 2 .invalidChecksum) (inp true true 0x42 false false)
    (fun t => t.status == 0x0000 && !t.out.consumed && t.cell 0 == none) = true := by decide

/-! ### Witnesses: one state for each operation

Each meets both invariants, its inputs select the operation, and its step answers a next state. -/

def atReset : State := (st [] true false 0 .ok).withInput (inp true true 0x42 true true)
def atFaultHold : State := (st [0x11] false true 3 .sourceError).withInput (inp false true 0x42 true true)
def atOutAccept : State := (st [] true false 0 .ok).withInput (inp false true 0x42 true true)
def atOutWait : State := (st [] true false 0 .ok).withInput (inp false true 0x42 true false)
def atDecOk : State := (st s1.toList false false 3 .invalidStartByte).withInput (inp false true 0x42 true true)
def atDecBadChecksum : State := (st s2.toList false false 0 .none).withInput (inp false true 0x42 true true)
def atDecBadStart : State := (st s3.toList false false 4294967295 .invalidChecksum).withInput (inp false false 0 false true)
def atSourceError : State := (st [0x11, 0x22] false false 0 .ok).withInput (inp false true 0x42 true true)
def atFill : State := (st (s1.toList.take 31) false false 0 .none).withInput (inp false true 0x42 false true)
def atIdle : State := (st [] false false 0 .none).withInput (inp false false 0 false true)

theorem witness_reset : atReset.Inv ∧ atReset.resultInv ∧ selVector atReset.nextInput atReset &&& 0x40 = 0x40 ∧
    atReset.nextInput.rst = true ∧ selectedOp atReset = some .reset ∧ ∃ t, step atReset = .next t :=
  ⟨by decide, by decide, by decide, by decide, by decide, answers (by decide)⟩

theorem witness_faultHold : atFaultHold.Inv ∧ atFaultHold.resultInv ∧ selVector atFaultHold.nextInput atFaultHold &&& 0x60 = 0x20 ∧
    atFaultHold.fault = true ∧ selectedOp atFaultHold = some .faultHold ∧ ∃ t, step atFaultHold = .next t :=
  ⟨by decide, by decide, by decide, by decide, by decide, answers (by decide)⟩

theorem witness_outAccept : atOutAccept.Inv ∧ atOutAccept.resultInv ∧ selVector atOutAccept.nextInput atOutAccept &&& 0x71 = 0x11 ∧
    atOutAccept.outValid = true ∧ selectedOp atOutAccept = some .outAccept ∧ ∃ t, step atOutAccept = .next t :=
  ⟨by decide, by decide, by decide, by decide, by decide, answers (by decide)⟩

theorem witness_outWait : atOutWait.Inv ∧ atOutWait.resultInv ∧ selVector atOutWait.nextInput atOutWait &&& 0x71 = 0x10 ∧
    selectedOp atOutWait = some .outWait ∧ ∃ t, step atOutWait = .next t :=
  ⟨by decide, by decide, by decide, by decide, answers (by decide)⟩

theorem witness_decOk : atDecOk.Inv ∧ atDecOk.resultInv ∧ selVector atDecOk.nextInput atDecOk &&& 0x78 = 0x08 ∧
    snapshot atDecOk = .ok s1 ∧ s1[0] = 0x42 ∧ frameChecksum s1 = wrappingSum (s1.toList.take 30) ∧
    selectedOp atDecOk = some (.decOk s1) ∧ ∃ t, step atDecOk = .next t :=
  ⟨by decide, by decide, by decide, by decide, by decide, by decide, by decide, answers (by decide)⟩

theorem witness_decBadChecksum : atDecBadChecksum.Inv ∧ atDecBadChecksum.resultInv ∧
    selVector atDecBadChecksum.nextInput atDecBadChecksum &&& 0x78 = 0x08 ∧ snapshot atDecBadChecksum = .ok s2 ∧ s2[0] = 0x42 ∧
    frameChecksum s2 ≠ wrappingSum (s2.toList.take 30) ∧ atDecBadChecksum.cnt = 32 ∧ (atDecBadChecksum.cell 0).isSome = true ∧
    selectedOp atDecBadChecksum = some (.decBadChecksum s2) ∧ ∃ t, step atDecBadChecksum = .next t :=
  ⟨by decide, by decide, by decide, by decide, by decide, by decide, by decide, by decide, by decide, answers (by decide)⟩

theorem witness_decBadStart : atDecBadStart.Inv ∧ atDecBadStart.resultInv ∧
    selVector atDecBadStart.nextInput atDecBadStart &&& 0x78 = 0x08 ∧ snapshot atDecBadStart = .ok s3 ∧ s3[0] ≠ 0x42 ∧
    atDecBadStart.cnt = 32 ∧ (atDecBadStart.cell 0).isSome = true ∧ atDecBadStart.resyncCount.toNat = 2 ^ 32 - 1 ∧
    selectedOp atDecBadStart = some (.decBadStart s3) ∧ ∃ t, step atDecBadStart = .next t :=
  ⟨by decide, by decide, by decide, by decide, by decide, by decide, by decide, by decide, by decide, answers (by decide)⟩

theorem witness_sourceError : atSourceError.Inv ∧ atSourceError.resultInv ∧
    selVector atSourceError.nextInput atSourceError &&& 0x7C = 0x04 ∧ selectedOp atSourceError = some .sourceError ∧
    ∃ t, step atSourceError = .next t :=
  ⟨by decide, by decide, by decide, by decide, answers (by decide)⟩

theorem witness_fill : atFill.Inv ∧ atFill.resultInv ∧ selVector atFill.nextInput atFill &&& 0x7E = 0x02 ∧ atFill.cnt.toNat = 31 ∧
    selectedOp atFill = some (.fill 0x42) ∧ ∃ t, step atFill = .next t :=
  ⟨by decide, by decide, by decide, by decide, by decide, answers (by decide)⟩

theorem witness_idle : atIdle.Inv ∧ atIdle.resultInv ∧ selVector atIdle.nextInput atIdle &&& 0x7E = 0x00 ∧
    selectedOp atIdle = some .idle ∧ ∃ t, step atIdle = .next t :=
  ⟨by decide, by decide, by decide, by decide, answers (by decide)⟩

/-- FILL with fewer than 31 bytes held, at 0 and at 30 (the other range of 42_reader_loop.md R170). -/
theorem witness_fill_below_31 :
    ∀ s ∈ [(st [] false false 0 .none).withInput (inp false true 0x42 false true),
        (st (s1.toList.take 30) false false 0 .none).withInput (inp false true 0x42 false true)],
      s.Inv ∧ s.cnt.toNat < 31 ∧ selectedOp s = some (.fill 0x42) ∧ isNext (step s) = true := by decide

/-! ### Witnesses: the other hypotheses -/

theorem witness_EverySelectionAndFrameHasOneRow :
    Instr.faultHold ≠ .sourceError ∧ exec .faultHold atFaultHold = .next atFaultHold ∧ atFaultHold.fault = true :=
  ⟨by decide, rfl, by decide⟩

theorem witness_DecodeOfEncodeIsTheOperation :
    (Instr.decOk s1).wellFormed = true ∧ (Instr.decBadChecksum s2).wellFormed = true ∧ (Instr.decBadStart s3).wellFormed = true ∧
    (Instr.fill 0xFF).wellFormed = true ∧ Instr.reset.wellFormed = true := by decide

theorem witness_DecodedBytesAreTheOperationsEncoding : decode [0x03, 0x42, 0x99] = .ok (.fill 0x42, [0x99]) := by decide

theorem witness_WrappingSumIsTheSumModulo65536 : List.Perm [(0xFF : Byte), 0x01] [0x01, 0xFF] := by decide

/-- The smallest and the largest valid frame, and the checksum fields next to their range. -/
theorem witness_ChecksumSumNeverWrapsAtADecision :
    z[0] = 0x42 ∧ frameDecode z = .ok (extractFields z) ∧ frameChecksum z = 66 ∧
    x[0] = 0x42 ∧ frameDecode x = .ok (extractFields x) ∧ frameChecksum x = 7461 ∧
    (z.set 31 0x41)[0] = 0x42 ∧ (frameChecksum (z.set 31 0x41)).toNat = 65 ∧
    (x.set 31 0x26)[0] = 0x42 ∧ (frameChecksum (x.set 31 0x26)).toNat = 7462 := by decide

theorem witness_ValidityDependsOnTheSumAlone :
    let g := (s1.set 16 0x96).set 17 0x00
    s1 ≠ g ∧ s1[0] = g[0] ∧ frameChecksum s1 = frameChecksum g ∧
    ((s1.toList.take 30).map BitVec.toNat).sum % 65536 = ((g.toList.take 30).map BitVec.toNat).sum % 65536 := by decide

theorem witness_ThirteenBitAccumulatorIsEnough : 13 ≤ 13 := by decide

theorem witness_MarkerByteIsSummedButNotChecked :
    frameDecode s1 = .ok s1Fields ∧ (0x00 : Byte) ≠ s1[1] ∧ s1[0] = 0x42 ∧ beU16 0x01 0xCD = frameSum (s1.set 1 0x00) := by decide

theorem witness_NoFieldValueIsChecked : s1[0] = 0x42 ∧ beU16 0x02 0x1A = frameSum s1 := by decide

theorem witness_PortsAreFunctionsOfTheState :
    atIdle.cnt.toNat ≤ 32 ∧ atDecOk.cnt.toNat = 32 ∧ atIdle.outValid = false ∧ atOutWait.outValid = true := by decide

theorem witness_FillPushesTheInputByte :
    ∃ t, atFill.windowFilled ∧ atFill.phase = .filling ∧ atFill.cnt = 31 ∧ exec (.fill 0x1A) atFill = .next t ∧
      (inp false true 0x42 true true).rst = false := by
  obtain ⟨t, h⟩ := answers (o := exec (.fill 0x1A) atFill) (by decide)
  exact ⟨t, by decide, by decide, by decide, h, rfl⟩

theorem witness_DecOkEmitsTheFrame : frameDecode s1 = .ok s1Fields := by decide

theorem witness_OperationsStopWhereNoCellByteOrFrameIs :
    32 ≤ atDecOk.cnt.toNat ∧ atIdle.cell 0 = none ∧ atIdle.outValid = false := by decide

theorem witness_WindowReadsAreBigEndianAndAgree :
    atDecOk.cell 0 = some 0x42 ∧ atDecOk.cell 1 = some 0x4D ∧ atDecOk.cell 30 = some 0x02 ∧ atDecOk.cell 31 = some 0x1A ∧
    snapshot atDecOk = .ok s1 := by decide

/-- A listed input record. -/
theorem witness_StepAppliesTheDecodedOperation :
    fetchOp atFill.nextInput atFill = .ok [0x03, 0x42] ∧ decode [0x03, 0x42] = .ok (.fill 0x42, []) ∧
    atFill.inputs = inp false true 0x42 false true :: [] := by decide

/-- No listed input record: the free one is taken, whatever it is. -/
theorem witness_StepAppliesTheDecodedOperation_free :
    ∃ bs i rest, fetchOp State.reset.nextInput State.reset = .ok bs ∧ decode bs = .ok (i, rest) ∧ State.reset.inputs = [] := by
  have h : (selectedOp State.reset).isSome = true := by
    rw [selectedOp_eq]
    generalize State.reset.nextInput = r
    obtain ⟨a, b, c, d, e⟩ := r
    cases a <;> cases b <;> cases d <;> rfl
  unfold selectedOp at h
  cases hb : fetchOp State.reset.nextInput State.reset with
  | error e => simp [hb] at h
  | ok bs =>
    cases hd : decode bs with
    | error e => simp [hb, hd] at h
    | ok r => exact ⟨bs, r.1, r.2, rfl, hd, rfl⟩

theorem witness_StepSamplesOnlyTheInputsOfItsPhase :
    (inp true true 0x42 false false).rst = (inp true false 0 true true).rst ∧
    (inp true true 0x42 false false).rst = true ∧
    (inp false true 0x42 false true).rst = (inp false false 0 true true).rst ∧
    atFaultHold.phase = .faulted ∧ atDecOk.phase = .full ∧
    atOutAccept.phase = .output ∧ (inp false true 0x42 false true).outReady = (inp false false 0 true true).outReady ∧
    atFill.phase = .filling ∧ (inp false true 0x42 true true).inError = true ∧ (inp false false 0 true false).inError = true ∧
    (inp false true 0x42 false true).inError = (inp false true 0x42 false false).inError ∧
    (inp false true 0x42 false true).inValid = (inp false true 0x42 false false).inValid ∧
    (inp false true 0x42 false true).inByte = (inp false true 0x42 false false).inByte := by decide

theorem witness_NoStepStopsUnderTheInvariant : State.reset.Inv := by decide

theorem witness_EachPhaseMakesProgress :
    atDecOk.Inv ∧ atDecOk.phase = .full ∧ atOutWait.Inv ∧ atOutWait.phase = .output ∧ atFill.Inv ∧ atFill.phase = .filling ∧
    (inp false true 0x42 false true).rst = false ∧ (inp false true 0x42 false true).outReady = true ∧
    (inp false true 0x42 false true).inValid = true ∧ (inp false true 0x42 false true).inError = false := by decide

theorem witness_FeedAndSettleEndWithinThreeSteps :
    atDecOk.Inv ∧ atDecOk.fault = false ∧ atFaultHold.Inv ∧ atFaultHold.fault = true := by decide

/-! ### Witnesses: runs -/

/-- The run of `n` steps from a state, if each of them answers a next state. -/
def trace : Nat → State → Option (List Event × State)
  | 0, s => some ([], s)
  | n + 1, s =>
    match trace n s with
    | none => none
    | some (h, t) =>
      match selectedOp t, step t with
      | some i, .next u => some (h ++ [⟨i, u.out⟩], u)
      | _, _ => none

theorem run_of_trace : ∀ {n : Nat} {s t : State} {h : List Event}, trace n s = some (h, t) → Run s h t
  | 0, s, t, h, e => by
    cases e
    exact .refl s
  | n + 1, s, t, h, e => by
    rw [trace] at e
    split at e
    · cases e
    · rename_i h' t' e'
      split at e
      · rename_i i u hi hu
        cases e
        exact .snoc (run_of_trace e') hi hu
      · cases e

/-- What a run ends in meets a condition. -/
def traceMeets (n : Nat) (s : State) (p : List Event → State → Bool) : Bool :=
  match trace n s with
  | some (h, t) => p h t
  | none => false

theorem run_of_meets {n : Nat} {s : State} {p : List Event → State → Bool} (m : traceMeets n s p = true) :
    ∃ h t, Run s h t ∧ p h t = true := by
  unfold traceMeets at m
  split at m
  · exact ⟨_, _, run_of_trace ‹_›, m⟩
  · cases m

/-- An input record that offers a byte, the consumer ready. -/
def offer (b : Byte) : Input := inp false true b false true

/-- An input record that offers nothing, the consumer ready. -/
def nop : Input := inp false false 0 false true

/-- A session just begun, in which a garbage byte, the frame Z and 32 zero bytes are consumed and all three decisions are taken. -/
def session : State :=
  { State.reset with
    inputs := (0x00 :: z.toList.take 31).map offer ++ nop :: offer 0x42 :: nop :: nop :: List.replicate 32 (offer 0x00) ++ [nop] }

/-- The decisions of the session. -/
def sessionDecisions : List Decision :=
  [⟨0, Vector.ofFn fun i : Fin 32 => if i.val = 1 then 0x42 else 0x00, .error .invalidStartByte⟩, ⟨1, z, .ok (extractFields z)⟩,
    ⟨33, Vector.replicate 32 0x00, .error .invalidStartByte⟩]

/-- The whole session: a failure, a success, delivery, a failure. Its decisions meet every clause of the statements about streams. -/
theorem witness_run_filling : ∃ h t, session.sessionStart ∧ Run session h t ∧ oneSession h ∧ t.phase = .filling ∧ t.outValid = false ∧
    decisions h = sessionDecisions ∧
    deliveredFrames h = [extractFields z] := by
  obtain ⟨h, t, r, m⟩ := run_of_meets (n := 69) (s := session) (p := fun h t =>
    decide ((∀ e ∈ h, e.op ≠ .reset ∧ e.op ≠ .sourceError) ∧ t.phase = .filling ∧ t.outValid = false ∧
      decisions h = sessionDecisions ∧
      deliveredFrames h = [extractFields z])) (by decide)
  have m' := of_decide_eq_true m
  exact ⟨h, t, by decide, r, m'⟩

/-- The session with its frame pending. -/
theorem witness_run_pending : ∃ h t, session.sessionStart ∧ Run session h t ∧ oneSession h ∧ t.outValid = true ∧
    t.readO = some (extractFields z) ∧ ∃ e ∈ h, e.op = .decOk z := by
  obtain ⟨h, t, r, m⟩ := run_of_meets (n := 35) (s := session) (p := fun h t =>
    decide ((∀ e ∈ h, e.op ≠ .reset ∧ e.op ≠ .sourceError) ∧ t.outValid = true ∧ t.readO = some (extractFields z) ∧
      ∃ e ∈ h, e.op = .decOk z)) (by decide)
  have m' := of_decide_eq_true m
  exact ⟨h, t, by decide, r, m'⟩

/-- The session right before its success: one garbage byte before the frame. -/
theorem witness_ResynchronisesAfterGarbage : ∃ h t, session.sessionStart ∧ Run session h t ∧ oneSession h ∧
    (∀ e ∈ h, e.isOk = false) ∧ selectedOp t = some (.decOk z) ∧ consumedBytes h <+: [0x00] ++ z.toList ++ [] ∧
    frameDecode z = .ok (extractFields z) ∧
    (∀ j, j < [(0x00 : Byte)].length → ∃ e, decodeAt ([0x00] ++ z.toList ++ []) j = some (.error e)) := by
  obtain ⟨h, t, r, m⟩ := run_of_meets (n := 34) (s := session) (p := fun h t =>
    decide ((∀ e ∈ h, e.op ≠ .reset ∧ e.op ≠ .sourceError) ∧ (∀ e ∈ h, e.isOk = false) ∧ selectedOp t = some (.decOk z) ∧
      consumedBytes h = [0x00] ++ z.toList ++ [])) (by decide)
  obtain ⟨m1, m2, m3, m4⟩ := of_decide_eq_true m
  refine ⟨h, t, by decide, r, m1, m2, m3, by rw [m4], by decide, fun j hj => ?_⟩
  obtain rfl : j = 0 := by simpa using hj
  exact ⟨.invalidStartByte, by decide⟩

/-- A false sync at position 1 that overlaps position 5. -/
theorem witness_FalseSyncSkipsTheOverlappingFrame : ∃ h t, session.sessionStart ∧ Run session h t ∧ oneSession h ∧
    (∃ ds es, decisions h = ds ++ ⟨1, z, .ok (extractFields z)⟩ :: es) ∧ (1 < 5 ∧ 5 < 1 + 32) := by
  obtain ⟨h, t, h1, h2, h3, _, _, h4, _⟩ := witness_run_filling
  exact ⟨h, t, h1, h2, h3, ⟨_, _, (by rw [h4]; exact List.singleton_append.symm)⟩, by decide⟩

/-- Two sessions of one byte each, one of them with an idle step before it. -/
theorem witness_ResultsDoNotDependOnTiming :
    ∃ r r' h h' t t', State.sessionStart r ∧ State.sessionStart r' ∧ Run r h t ∧ Run r' h' t' ∧ oneSession h ∧ oneSession h' ∧
      t.phase = .filling ∧ t'.phase = .filling ∧ consumedBytes h = consumedBytes h' ∧ h.length ≠ h'.length := by
  obtain ⟨h, t, r, m⟩ := run_of_meets (n := 1) (s := (State.reset.withInput (offer 0x42))) (p := fun h t =>
    decide ((∀ e ∈ h, e.op ≠ .reset ∧ e.op ≠ .sourceError) ∧ t.phase = .filling ∧ consumedBytes h = [0x42] ∧ h.length = 1)) (by decide)
  obtain ⟨h', t', r', m'⟩ := run_of_meets (n := 2) (s := ((State.reset.withInput (offer 0x42)).withInput nop)) (p := fun h t =>
    decide ((∀ e ∈ h, e.op ≠ .reset ∧ e.op ≠ .sourceError) ∧ t.phase = .filling ∧ consumedBytes h = [0x42] ∧ h.length = 2)) (by decide)
  obtain ⟨m1, m2, m3, m4⟩ := of_decide_eq_true m
  obtain ⟨n1, n2, n3, n4⟩ := of_decide_eq_true m'
  exact ⟨_, _, h, h', t, t', by decide, by decide, r, r', m1, n1, m2, n2, by rw [m3, n3], by omega⟩

/-- A run from the state after a RESET step, as the statements about reachable states take it. -/
theorem witness_StepKeepsTheBlockInvariant :
    ∃ r t h, selectedOp atReset = some .reset ∧ step atReset = .next r ∧ Run r h t := by
  obtain ⟨r, hr⟩ := answers (o := step atReset) (by decide)
  exact ⟨r, r, [], by decide, hr, .refl r⟩

/-- The start of a session. -/
theorem witness_SessionStartMeetsTheStreamInvariants : State.reset.sessionStart := by decide

/-- The record of the FILL steps that consumed the given bytes. -/
def fills (bs : List Byte) : List Event :=
  bs.map fun b => ⟨.fill b, { inReady := true, consumed := true, delivered := none, evt := none }⟩

/-- A full window on which a decision is due, and the steps that filled it. -/
def full : State := (st s3.toList false false 0 .none).withInput nop

theorem witness_StepKeepsTheWindowAtTheLastBytes :
    full.holdsLast (bytesSinceFresh (fills s3.toList)) ∧ selectedOp full = some (.decBadStart s3) ∧ ∃ u, step full = .next u :=
  ⟨(State.holdsLast_iff _ _).mpr (by decide), by decide, answers (by decide)⟩

theorem witness_StepKeepsTheDecisionsOnTheScan :
    followsScan (fills s3.toList) full ∧ selectedOp full = some (.decBadStart s3) ∧ Instr.decBadStart s3 ≠ .reset ∧
      ∃ u, step full = .next u :=
  ⟨⟨(State.holdsLast_iff _ _).mpr (by decide), by decide, by decide⟩, by decide, by decide, answers (by decide)⟩

/-- One failed decision later, with 31 bytes held and one window passed over. -/
def slid : State := (st s3.toList.tail false false 1 .invalidStartByte).withInput (offer 0x55)

theorem witness_StepKeepsTheHuntForTheFirstFrame :
    ∃ h, huntsFirstFrame h slid ∧ selectedOp slid = some (.fill 0x55) ∧ Instr.fill 0x55 ≠ .reset ∧
      (∀ f, Instr.fill 0x55 ≠ .decOk f) ∧ windowPos h slid = 1 ∧ ∃ u, step slid = .next u := by
  refine ⟨fills s3.toList ++ [⟨.decBadStart s3, { inReady := false, consumed := false, delivered := none, evt := some .invalidStartByte }⟩],
    ⟨(State.holdsLast_iff _ _).mpr (by decide), fun j hj => ?_, by decide, by decide⟩, by decide, by decide, nofun, by decide,
    answers (by decide)⟩
  have hp : windowPos (fills s3.toList ++ [⟨.decBadStart s3,
      { inReady := false, consumed := false, delivered := none, evt := some .invalidStartByte }⟩]) slid = 1 := by decide
  obtain rfl : j = 0 := by omega
  exact ⟨.invalidStartByte, by decide⟩

/-- A decision that answers a next state. -/
theorem witness_FailedDecodesAreNeverFatal : ∃ t, exec (.decBadStart s3) atDecBadStart = .next t := answers (by decide)

end Sys2Proof.Tests
end

/-! SUPPORT. The proofs of the statements about the state (10_state.md). First the facts they share: each operation as a precondition and
an effect, what each effect leaves alone, the window under the primitives, the invariant along a run, and the views of the state. -/

namespace Sys2Proof.Machine

/-! ### The named next states, field by field -/

@[simp] theorem slideState_W (c : ResultCode) (s : State) : (slideState c s).W = s.W.shiftDown := rfl
@[simp] theorem slideState_cnt (c : ResultCode) (s : State) : (slideState c s).cnt = s.cnt - 1 := rfl
@[simp] theorem slideState_outValid (c : ResultCode) (s : State) : (slideState c s).outValid = s.outValid := rfl
@[simp] theorem slideState_O (c : ResultCode) (s : State) : (slideState c s).O = s.O := rfl
@[simp] theorem slideState_fault (c : ResultCode) (s : State) : (slideState c s).fault = s.fault := rfl
@[simp] theorem slideState_resyncCount (c : ResultCode) (s : State) : (slideState c s).resyncCount = saturatingSucc s.resyncCount := rfl
@[simp] theorem slideState_lastResult (c : ResultCode) (s : State) : (slideState c s).lastResult = c := rfl
@[simp] theorem slideState_inputs (c : ResultCode) (s : State) : (slideState c s).inputs = s.inputs := rfl
@[simp] theorem slideState_freeIndex (c : ResultCode) (s : State) : (slideState c s).freeIndex = s.freeIndex := rfl
@[simp] theorem slideState_out (c : ResultCode) (s : State) : (slideState c s).out = { s.out with evt := some c } := rfl

@[simp] theorem decOkState_W (f : Frame) (s : State) : (decOkState f s).W = [] := rfl
@[simp] theorem decOkState_cnt (f : Frame) (s : State) : (decOkState f s).cnt = 0 := rfl
@[simp] theorem decOkState_outValid (f : Frame) (s : State) : (decOkState f s).outValid = true := rfl
@[simp] theorem decOkState_O (f : Frame) (s : State) : (decOkState f s).O = extractFields f := rfl
@[simp] theorem decOkState_fault (f : Frame) (s : State) : (decOkState f s).fault = s.fault := rfl
@[simp] theorem decOkState_resyncCount (f : Frame) (s : State) : (decOkState f s).resyncCount = 0 := rfl
@[simp] theorem decOkState_lastResult (f : Frame) (s : State) : (decOkState f s).lastResult = .ok := rfl
@[simp] theorem decOkState_inputs (f : Frame) (s : State) : (decOkState f s).inputs = s.inputs := rfl
@[simp] theorem decOkState_freeIndex (f : Frame) (s : State) : (decOkState f s).freeIndex = s.freeIndex := rfl
@[simp] theorem decOkState_out (f : Frame) (s : State) : (decOkState f s).out = { s.out with evt := some .ok } := rfl

/-! ### An operation as a precondition and an effect -/

/-- What an operation needs of the state to have a next state (logs 5, 6, 7). -/
def precondition : Instr → State → Prop
  | .reset, _ => True
  | .faultHold, _ => True
  | .outAccept, s => s.outValid = true
  | .outWait, _ => True
  | .decOk _, _ => True
  | .decBadChecksum _, s => (s.cell 0).isSome
  | .decBadStart _, s => (s.cell 0).isSome
  | .sourceError, _ => True
  | .fill _, s => s.cnt.toNat < 32
  | .idle, _ => True

/-- The next state of an operation whose precondition holds. -/
def effect : Instr → State → State
  | .reset, s => restart s
  | .faultHold, s => s
  | .outAccept, s => (s.setDelivered s.O).setOutValid false
  | .outWait, s => s
  | .decOk f, s => decOkState f s
  | .decBadChecksum _, s => slideState .invalidChecksum s
  | .decBadStart _, s => slideState .invalidStartByte s
  | .sourceError, s => raiseSourceError s
  | .fill b, s => (s.setWindow (s.W.write s.cnt.toNat b) (s.cnt + 1)).setConsumed
  | .idle, s => s

/-- `exec` is its precondition and its effect. -/
theorem exec_next {i : Instr} {s t : State} : exec i s = .next t ↔ precondition i s ∧ t = effect i s := by
  cases i with
  | outAccept => exact execOutAccept_next
  | decBadChecksum f => exact execDecBadChecksum_next (f := f)
  | decBadStart f => exact execDecBadStart_next (f := f)
  | fill b => exact execFill_next
  | _ => simp [exec, precondition, effect, execReset_eq, execFaultHold_eq, execOutWait_eq, execDecOk_eq, execSourceError_eq,
      execIdle_eq, eq_comm]

/-- A step is the effect of the operation selected, on the state with the step begun. -/
theorem step_eq_effect {s t : State} {i : Instr} (hi : selectedOp s = some i) (h : step s = .next t) :
    t = effect i s.beginStep := by
  rw [step_of_selectedOp hi] at h
  exact (exec_next.mp h).2

/-! ### The operations that alone change a field -/

theorem effect_fault_of_ne {i : Instr} (h₁ : i ≠ .sourceError) (h₂ : i ≠ .reset) (s : State) :
    (effect i s).fault = s.fault := by
  cases i with
  | sourceError => exact absurd rfl h₁
  | reset => exact absurd rfl h₂
  | _ => rfl

theorem effect_output_of_ne {i : Instr} (h₁ : ∀ f, i ≠ .decOk f) (h₂ : i ≠ .outAccept) (h₃ : i ≠ .reset) (s : State) :
    (effect i s).outValid = s.outValid ∧ (effect i s).O = s.O := by
  cases i with
  | decOk f => exact absurd rfl (h₁ f)
  | outAccept => exact absurd rfl h₂
  | reset => exact absurd rfl h₃
  | _ => exact ⟨rfl, rfl⟩

theorem effect_resyncCount_of_ne {i : Instr} (h₁ : ∀ f, i ≠ .decOk f ∧ i ≠ .decBadStart f ∧ i ≠ .decBadChecksum f)
    (h₂ : i ≠ .reset) (s : State) : (effect i s).resyncCount = s.resyncCount := by
  cases i with
  | decOk f => exact absurd rfl (h₁ f).1
  | decBadStart f => exact absurd rfl (h₁ f).2.1
  | decBadChecksum f => exact absurd rfl (h₁ f).2.2
  | reset => exact absurd rfl h₂
  | _ => rfl

theorem effect_lastResult_of_ne {i : Instr} (h₁ : ∀ f, i ≠ .decOk f ∧ i ≠ .decBadStart f ∧ i ≠ .decBadChecksum f)
    (h₂ : i ≠ .sourceError) (h₃ : i ≠ .reset) (s : State) : (effect i s).lastResult = s.lastResult := by
  cases i with
  | decOk f => exact absurd rfl (h₁ f).1
  | decBadStart f => exact absurd rfl (h₁ f).2.1
  | decBadChecksum f => exact absurd rfl (h₁ f).2.2
  | sourceError => exact absurd rfl h₂
  | reset => exact absurd rfl h₃
  | _ => rfl

/-! ### Nothing but `resync_count` depends on `resync_count` -/

@[simp] theorem State.nextInput_setResyncCount (s : State) (n : BitVec 32) : (s.setResyncCount n).nextInput = s.nextInput := rfl

@[simp] theorem State.full_setResyncCount (s : State) (n : BitVec 32) : (s.setResyncCount n).full = s.full := rfl

@[simp] theorem snapshot_setResyncCount (s : State) (n : BitVec 32) : snapshot (s.setResyncCount n) = snapshot s := rfl

theorem selectedOp_setResyncCount (s : State) (n : BitVec 32) : selectedOp (s.setResyncCount n) = selectedOp s := by
  rw [selectedOp_eq, selectedOp_eq, State.nextInput_setResyncCount, State.full_setResyncCount, snapshot_setResyncCount,
    State.setResyncCount_fault, State.setResyncCount_outValid]

theorem precondition_setResyncCount (i : Instr) (s : State) (n : BitVec 32) :
    precondition i (s.setResyncCount n) ↔ precondition i s := by
  cases i <;> rfl

theorem State.setResyncCount_eq_iff {s t : State} (n : BitVec 32) :
    s.setResyncCount n = t.setResyncCount n ↔
      s.W = t.W ∧ s.cnt = t.cnt ∧ s.outValid = t.outValid ∧ s.O = t.O ∧ s.fault = t.fault ∧ s.lastResult = t.lastResult ∧
      s.inputs = t.inputs ∧ s.freeIndex = t.freeIndex ∧ s.out = t.out := by
  simp [State.setResyncCount]

theorem effect_setResyncCount (i : Instr) (s : State) (n : BitVec 32) :
    (effect i (s.setResyncCount n)).setResyncCount 0 = (effect i s).setResyncCount 0 := by
  rw [State.setResyncCount_eq_iff]
  cases i <;> simp [effect]

/-- A step from a state with another `resync_count` gives a state that differs in `resync_count` at most (10_state.md R37). -/
theorem step_setResyncCount {s t : State} (n : BitVec 32) (h : step s = .next t) :
    ∃ u, step (s.setResyncCount n) = .next u ∧ u.setResyncCount 0 = t.setResyncCount 0 := by
  obtain ⟨i, hi, he⟩ := step_next h
  obtain ⟨hp, rfl⟩ := exec_next.mp he
  refine ⟨effect i (s.beginStep.setResyncCount n), ?_, effect_setResyncCount i s.beginStep n⟩
  rw [step_of_selectedOp ((selectedOp_setResyncCount s n).trans hi)]
  exact exec_next.mpr ⟨(precondition_setResyncCount i s.beginStep n).mpr hp, rfl⟩

/-! ### What a selected operation says of the state -/

/-- While faulted only FAULT_HOLD and RESET are taken. -/
theorem selectedOp_of_fault {s : State} {i : Instr} (hi : selectedOp s = some i) (hf : s.fault = true) :
    i = .faultHold ∨ i = .reset := by
  rw [selectedOp_eq] at hi
  cases hr : s.nextInput.rst
  · exact .inl (by simpa [hr, hf, eq_comm] using hi)
  · exact .inr (by simpa [hr, eq_comm] using hi)

theorem frameDecode_of_classifyFrame {f g : Frame} (h : classifyFrame g = .decOk f) : frameDecode f = .ok (extractFields f) := by
  rcases classifyFrame_cases g with ⟨hs, hc, hg⟩ | ⟨_, _, hg⟩ | ⟨_, hg⟩
  · obtain rfl : g = f := Instr.decOk.inj (hg.symm.trans h)
    simp [frameDecode, hs, hc]
  · cases hg.symm.trans h
  · cases hg.symm.trans h

/-- DEC_OK is taken only on a frame that decodes (30_encoding.md R87). -/
theorem frameDecode_of_selected_decOk {s : State} {f : Frame} (h : selectedOp s = some (.decOk f)) :
    frameDecode f = .ok (extractFields f) := by
  rcases selectedOp_cases h with ⟨⟨⟩, _⟩ | ⟨_, ⟨⟨⟩, _⟩ | ⟨_, ⟨⟨⟩, _⟩ | ⟨⟨⟩, _⟩ | ⟨_, ⟨_, _, _, hf⟩ | ⟨_, ⟨⟨⟩, _⟩ | ⟨_, ⟨⟨⟩, _⟩ | ⟨⟨⟩, _⟩⟩⟩⟩⟩⟩
  exact frameDecode_of_classifyFrame hf.symm

/-! ### The window under Push, PopFront and Clear -/

theorem State.windowFilled_of_empty {t : State} (hW : t.W = []) (hc : t.cnt = 0) : t.windowFilled := by
  simp [State.windowFilled, hW, hc]

theorem State.windowFilled_push {s t : State} {b : Byte} (w : s.windowFilled) (hlt : s.cnt.toNat < 32)
    (hW : t.W = s.W.write s.cnt.toNat b) (hc : t.cnt = s.cnt + 1) : t.windowFilled := by
  obtain ⟨bs, e, l, _⟩ := (State.windowFilled_iff s).mp w
  rw [State.windowFilled_iff]
  refine ⟨bs ++ [b], ?_, ?_, ?_⟩
  · rw [hW, e, ← l, Memory.write_ofBytes]
  · rw [hc, cnt_succ_toNat hlt, ← l, List.length_append, List.length_singleton]
  · rw [List.length_append, List.length_singleton]
    omega

theorem State.windowFilled_slide {s t : State} (w : s.windowFilled) (hfull : s.cnt = 32) (hW : t.W = s.W.shiftDown)
    (hc : t.cnt = s.cnt - 1) : t.windowFilled := by
  obtain ⟨bs, e, l, _⟩ := (State.windowFilled_iff s).mp w
  rw [State.windowFilled_iff]
  refine ⟨bs.tail, by rw [hW, e, Memory.shiftDown_ofBytes], ?_, ?_⟩
  · rw [hc, List.length_tail, l, hfull]
    rfl
  · rw [List.length_tail]
    omega

/-! ### The invariant -/

/-- With no frame pending, all that the invariant asks is a filled window. -/
theorem State.Inv_of_not_outValid {t : State} (w : t.windowFilled) (hv : t.outValid = false) : t.Inv := by
  simpa [State.Inv, hv] using w

theorem restart_Inv (s : State) : (restart s).Inv :=
  State.Inv_of_not_outValid (State.windowFilled_of_empty rfl rfl) rfl

/-- Every step keeps the invariant, in the order of `step_cases`: only DEC_OK leaves a frame newly pending, and it empties the window,
aligns the block and is not taken while faulted. -/
theorem step_keeps_Inv {s t : State} (inv : s.Inv) (h : step s = .next t) : t.Inv := by
  have w : s.windowFilled := inv.1
  rcases step_cases h with ⟨_, _, rfl⟩ | ⟨_, _, rfl⟩ | ⟨_, _, _, rfl⟩ | ⟨_, _, _, rfl⟩ | ⟨f, _, hf, _, _, _, _, _, rfl⟩ |
    ⟨_, _, _, hv, hc, _, _, _, rfl⟩ | ⟨_, _, _, hv, hc, _, _, rfl⟩ | ⟨_, _, hv, _, rfl⟩ | ⟨_, _, _, hv, hlt, rfl⟩ | ⟨_, _, _, _, rfl⟩
  · exact restart_Inv _
  · exact inv
  · exact State.Inv_of_not_outValid w rfl
  · exact inv
  · exact ⟨State.windowFilled_of_empty rfl rfl, fun _ => rfl, fun h => by simp [hf] at h, fun _ => rfl⟩
  · exact State.Inv_of_not_outValid (State.windowFilled_slide w hc rfl rfl) hv
  · exact State.Inv_of_not_outValid (State.windowFilled_slide w hc rfl rfl) hv
  · exact State.Inv_of_not_outValid w hv
  · exact State.Inv_of_not_outValid (State.windowFilled_push w hlt rfl rfl) hv
  · exact inv

/-- What every step keeps holds along every run. -/
theorem Run.keeps {P : State → Prop} (keep : ∀ s t, P s → step s = .next t → P t) {s t : State} {h : List Event}
    (run : Run s h t) (start : P s) : P t := by
  induction run with
  | refl => exact start
  | snoc _ _ steps ih => exact keep _ _ ih steps

/-! ### The views of the state -/

theorem cnt_ne_32_iff {n : BitVec 6} (h : n.toNat ≤ 32) : n ≠ 32 ↔ n.toNat < 32 := by
  rw [ne_eq, BitVec.toNat_eq, show (32 : BitVec 6).toNat = 32 from rfl]
  omega

/-- The condition of each phase (10_state.md R42). -/
theorem State.phase_conditions (s : State) :
    (s.phase = .faulted ↔ s.fault = true) ∧
    (s.phase = .output ↔ s.fault = false ∧ s.outValid = true) ∧
    (s.phase = .full ↔ s.fault = false ∧ s.outValid = false ∧ s.cnt = 32) ∧
    (s.phase = .filling ↔ s.fault = false ∧ s.outValid = false ∧ s.cnt ≠ 32) := by
  rw [ne_eq, ← State.full_iff]
  unfold State.phase
  cases s.fault
  · cases s.outValid
    · cases s.full <;> simp
    · simp
  · simp

theorem State.phase_eq_filling {s : State} (h : s.cnt.toNat ≤ 32) :
    s.phase = .filling ↔ s.fault = false ∧ s.outValid = false ∧ s.cnt.toNat < 32 := by
  obtain ⟨_, _, _, filling⟩ := s.phase_conditions
  rw [filling, cnt_ne_32_iff h]

theorem State.inReady_iff (s : State) : s.inReady = true ↔ s.fault = false ∧ s.outValid = false ∧ s.cnt.toNat < 32 := by
  simp [State.inReady, and_assoc]

theorem State.resyncing_iff (s : State) : s.resyncing = true ↔ s.resyncCount ≠ 0 := by simp [State.resyncing]

/-- Each bit of STATUS is a bit of one field (10_state.md R45). -/
theorem State.getLsbD_status (s : State) (i : Nat) :
    s.status.getLsbD i =
      if i < 1 then (BitVec.ofBool s.outValid).getLsbD i
      else if i < 2 then (BitVec.ofBool s.fault).getLsbD (i - 1)
      else if i < 3 then (BitVec.ofBool s.resyncing).getLsbD (i - 2)
      else if i < 6 then s.lastResult.code.getLsbD (i - 3)
      else if i < 12 then s.cnt.getLsbD (i - 6)
      else false := by
  have append : s.status.getLsbD i = BitVec.getLsbD (w := 4 + 6 + 3 + 1 + 1 + 1) (0#4 ++ s.cnt ++ s.lastResult.code ++
    BitVec.ofBool s.resyncing ++ BitVec.ofBool s.fault ++ BitVec.ofBool s.outValid) i := rfl
  simp only [append, BitVec.getLsbD_append]
  grind

theorem State.status_lastResult (s : State) : s.status.extractLsb' 3 3 = s.lastResult.code := by
  ext i hi
  rw [BitVec.getElem_extractLsb', State.getLsbD_status, if_neg (by omega), if_neg (by omega), if_neg (by omega),
    if_pos (by omega), Nat.add_sub_cancel_left, BitVec.getLsbD_eq_getElem hi]

theorem State.status_cnt (s : State) : s.status.extractLsb' 6 6 = s.cnt := by
  ext i hi
  rw [BitVec.getElem_extractLsb', State.getLsbD_status, if_neg (by omega), if_neg (by omega), if_neg (by omega),
    if_neg (by omega), if_pos (by omega), Nat.add_sub_cancel_left, BitVec.getLsbD_eq_getElem hi]

theorem State.status_reserved (s : State) : s.status.extractLsb' 12 4 = 0 := by
  ext i hi
  rw [BitVec.getElem_extractLsb', State.getLsbD_status, if_neg (by omega), if_neg (by omega), if_neg (by omega),
    if_neg (by omega), if_neg (by omega)]
  simp

/-- The values of a frame are digits to base 2^16. -/
theorem lt_of_mem_map_toNat {v : SensorFrame} : ∀ d ∈ v.toList.map BitVec.toNat, d < 2 ^ 16 := by
  simp only [List.mem_map]
  rintro _ ⟨h, _, rfl⟩
  exact h.isLt

/-- The bus is the number whose digits to base 2^16 are the fifteen values, `O[0]` lowest (30_encoding.md R84). -/
theorem toNat_frameBus (v : SensorFrame) : (frameBus v).toNat = Nat.ofDigits (2 ^ 16) (v.toList.map BitVec.toNat) := by
  have digits : v.toList.foldr (fun h n => h.toNat + 65536 * n) 0 = Nat.ofDigits (2 ^ 16) (v.toList.map BitVec.toNat) := by
    rw [Nat.ofDigits_eq_foldr, List.foldr_map]
    rfl
  have fits := Nat.ofDigits_lt_base_pow_length (by norm_num) (lt_of_mem_map_toNat (v := v))
  rw [List.length_map, Vector.length_toList, ← pow_mul] at fits
  rw [frameBus, BitVec.toNat_ofNat, digits, Nat.mod_eq_of_lt fits]

theorem extractLsb'_frameBus (v : SensorFrame) (k : Fin 15) : (frameBus v).extractLsb' (16 * k.val) 16 = v[k.val] := by
  apply BitVec.eq_of_toNat_eq
  calc ((frameBus v).extractLsb' (16 * k.val) 16).toNat
      = Nat.ofDigits (2 ^ 16) (v.toList.map BitVec.toNat) / (2 ^ 16) ^ k.val % 2 ^ 16 := by
        rw [BitVec.extractLsb'_toNat, toNat_frameBus, Nat.shiftRight_eq_div_pow, pow_mul]
    _ = Nat.ofDigits (2 ^ 16) ((v.toList.map BitVec.toNat).drop k.val) % 2 ^ 16 := by
        rw [Nat.ofDigits_div_pow_eq_ofDigits_drop k.val (by norm_num) _ lt_of_mem_map_toNat]
    _ = v[k.val].toNat := by
        rw [List.drop_eq_getElem_cons (by simp)]
        simpa [Nat.ofDigits_cons] using v[k.val].isLt

/-! ### The statements -/

/-- Settles O36: the invariant is kept by every step and begins with RESET, so it holds along every run from a RESET step. -/
theorem stepKeepsTheBlockInvariant : Obligations.StepKeepsTheBlockInvariant := by
  have reset_Inv : ∀ s t : State, selectedOp s = some .reset → step s = .next t → t.Inv := by
    intro s t hi hs
    rw [step_eq_effect hi hs]
    exact restart_Inv _
  refine ⟨fun s t => step_keeps_Inv, reset_Inv, fun s r t h hi hs run => ?_⟩
  obtain ⟨⟨_, hcnt⟩, hempty, hfault, halign⟩ := run.keeps (fun _ _ => step_keeps_Inv) (reset_Inv s r hi hs)
  exact ⟨hcnt, hempty, hfault, halign⟩

/-- Settles O39, by the effect of each operation on `fault`. -/
theorem faultIsStickyUntilReset : Obligations.FaultIsStickyUntilReset := by
  intro s t i hi hs
  obtain rfl := step_eq_effect hi hs
  refine ⟨?_, ?_, fun h₁ h₂ => effect_fault_of_ne h₁ h₂ _, selectedOp_of_fault hi⟩
  · rintro rfl
    rfl
  · rintro rfl
    rfl

/-- Settles O40: DEC_OK writes `O` from the frame it was selected on, and that frame decodes. -/
theorem outValidIsSetAndClearedByItsOperations : Obligations.OutValidIsSetAndClearedByItsOperations := by
  intro s t i hi hs
  obtain rfl := step_eq_effect hi hs
  refine ⟨?_, ?_, fun h₁ h₂ h₃ => effect_output_of_ne h₁ h₂ h₃ _⟩
  · rintro f rfl
    exact ⟨rfl, frameDecode_of_selected_decOk hi⟩
  · rintro (rfl | rfl) <;> rfl

/-- Settles O41: the count by the effect of each operation, the independence by `step_setResyncCount`. -/
theorem resyncCountCountsFailedDecodes : Obligations.ResyncCountCountsFailedDecodes := by
  refine ⟨fun s t i hi hs => ?_, fun s t n => step_setResyncCount n⟩
  obtain rfl := step_eq_effect hi hs
  refine ⟨?_, ?_, ?_, fun h₁ h₂ => effect_resyncCount_of_ne h₁ h₂ _⟩
  · rintro f (rfl | rfl) <;> exact saturatingSucc_toNat _
  · rintro f rfl
    rfl
  · rintro rfl
    rfl

/-- Settles O42, by the effect of each operation on `last_result`. -/
theorem lastResultHoldsTheLatestCode : Obligations.LastResultHoldsTheLatestCode := by
  refine ⟨fun s t i hi hs => ?_, fun c => by cases c <;> decide⟩
  obtain rfl := step_eq_effect hi hs
  refine ⟨?_, ?_, ?_, ?_, ?_, fun h₁ h₂ h₃ => effect_lastResult_of_ne h₁ h₂ h₃ _⟩
  · rintro f rfl
    rfl
  · rintro f rfl
    rfl
  · rintro f rfl
    rfl
  · rintro rfl
    rfl
  · rintro rfl
    rfl

/-- Settles O16, field by field. -/
theorem statusFieldsShowTheState : Obligations.StatusFieldsShowTheState := by
  refine ⟨fun s => ⟨?_, ?_, ?_, s.status_lastResult, s.status_cnt, s.status_reserved, rfl⟩, by decide, rfl⟩
  · rw [State.getLsbD_status]
    simp
  · rw [State.getLsbD_status]
    simp
  · rw [State.getLsbD_status, ← State.resyncing_iff]
    simp

/-- Settles O17: the conditions of the phases, with FILLING read as `cnt < 32` below the capacity. -/
theorem phaseIsAFunctionOfTheState : Obligations.PhaseIsAFunctionOfTheState := by
  intro s
  obtain ⟨faulted, output, full, _⟩ := s.phase_conditions
  exact ⟨faulted, output, full, State.phase_eq_filling⟩

/-- Settles O18: `in_ready` and phase FILLING have the same condition, and the bus is read by its digits. -/
theorem portsAreFunctionsOfTheState : Obligations.PortsAreFunctionsOfTheState := by
  refine ⟨State.inReady_iff, fun s h => ?_, fun _ => rfl, fun s hv => ?_, fun s hv => ?_⟩
  · rw [State.inReady_iff, State.phase_eq_filling h]
  · simp [State.outFramePort, State.readO, hv]
  · exact ⟨frameBus s.O, by simp [State.outFramePort, State.readO, hv], extractLsb'_frameBus s.O⟩

/-- Settles O20: each value is the field of `State.reset`, and no cell lies below `cnt = 0`. -/
theorem stateAfterResetHasItsValues : Obligations.StateAfterResetHasItsValues := by
  refine ⟨rfl, fun a => ?_, rfl, rfl, rfl, rfl, rfl, rfl, rfl⟩
  simp [State.cell, State.reset]

end Sys2Proof.Machine

/-! SUPPORT. The proof of the statement about the window's memory (20_memory.md): 16-bit reads of the window. -/

namespace Sys2Proof.Machine

/-- Two bytes read big-endian (00_scope.md R12, 20_memory.md R63). -/
theorem toNat_beU16 (hi lo : Byte) : (beU16 hi lo).toNat = hi.toNat * 256 + lo.toNat := by
  rw [beU16, BitVec.toNat_append, ← Nat.shiftLeft_add_eq_or_of_lt lo.isLt, Nat.shiftLeft_eq]

/-- A 16-bit read of two cells that hold values (20_memory.md R63). -/
theorem State.memRead16_of_cells {s : State} {i : Nat} {hi lo : Byte} (h₁ : s.cell i = some hi)
    (h₂ : s.cell (i + 1) = some lo) : s.memRead16 i = some (beU16 hi lo) := by
  simp [State.memRead16, h₁, h₂]

/-- The 16-bit reads of a full window at the even indices from 2 on are the fields of its snapshot
(40_byte_window.md R113). -/
theorem State.memRead16_of_snapshot {s : State} {f : Frame} (h : snapshot s = .ok f) (k : Fin 15) :
    s.memRead16 (2 + 2 * k.val) = some (extractFields f)[k.val] := by
  have cells := (snapshot_eq_ok s f).mp h
  have first : s.cell (2 + 2 * k.val) = some f[2 + 2 * k.val] := cells ⟨2 + 2 * k.val, by omega⟩
  have second : s.cell (2 + 2 * k.val + 1) = some f[3 + 2 * k.val] := by
    rw [show 2 + 2 * k.val + 1 = 3 + 2 * k.val by omega]
    exact cells ⟨3 + 2 * k.val, by omega⟩
  rw [getElem_extractFields]
  exact State.memRead16_of_cells first second

/-- Settles O28, by the value of a 16-bit read, the cells of a snapshot, and the reads of a window that has one. -/
theorem windowReadsAreBigEndianAndAgree : Obligations.WindowReadsAreBigEndianAndAgree := by
  refine ⟨fun s i hi lo h₁ h₂ => ?_, snapshot_eq_ok, fun s f h k => State.memRead16_of_snapshot h k⟩
  exact ⟨beU16 hi lo, State.memRead16_of_cells h₁ h₂, toNat_beU16 hi lo⟩

end Sys2Proof.Machine

/-! SUPPORT. The proofs of the statements about encodings (30_encoding.md): first the rows of the operation map, the decision rows of a frame,
the frame word, and a frame with another checksum field. -/

namespace Sys2Proof.Machine

/-! ### The rows of the operation map -/

theorem selTable_filter_holds_length : ∀ sel : Sel, (selTable.filter (·.holds sel)).length = 1 := by decide

/-- The rows of the map exclude one another and leave no selection value out (30_encoding.md R88). -/
theorem existsUnique_row (sel : Sel) : ∃! r : SelRow, r ∈ selTable ∧ r.holds sel = true := by
  obtain ⟨r, hr⟩ := List.length_eq_one_iff.mp (selTable_filter_holds_length sel)
  have rows : ∀ q : SelRow, q ∈ selTable ∧ q.holds sel = true ↔ q = r := by
    intro q
    rw [← List.mem_singleton (b := r), ← hr, List.mem_filter]
  exact ⟨r, (rows r).mpr rfl, fun q => (rows q).mp⟩

/-- No two rows of the map are for the same operation. -/
theorem eq_of_mem_selTable_of_op_eq : ∀ r ∈ selTable, ∀ q ∈ selTable, r.op = q.op → r = q := by decide

/-- A row is selected exactly when it matches: the order of the map decides nothing (30_encoding.md R86). -/
theorem selectRow_eq_some_iff {op : SelOp} {pattern mask sel : Sel} (h : ⟨op, pattern, mask⟩ ∈ selTable) :
    selectRow sel = some op ↔ sel &&& mask = pattern := by
  have first : ∀ {r : SelRow}, selTable.find? (·.holds sel) = some r → r ∈ selTable ∧ r.holds sel = true :=
    fun hr => ⟨List.mem_of_find?_eq_some hr, List.find?_some (p := fun q : SelRow => q.holds sel) hr⟩
  have holds : (⟨op, pattern, mask⟩ : SelRow).holds sel = true ↔ sel &&& mask = pattern := beq_iff_eq
  rw [← holds]
  constructor
  · intro selected
    obtain ⟨r, hr, hop⟩ := Option.map_eq_some_iff.mp selected
    obtain ⟨mem, matched⟩ := first hr
    rwa [← eq_of_mem_selTable_of_op_eq r mem _ h hop]
  · intro matched
    obtain ⟨o, selected⟩ := Option.isSome_iff_exists.mp (selectRow_isSome sel)
    obtain ⟨r, hr, hop⟩ := Option.map_eq_some_iff.mp selected
    rw [selected, ← hop, (existsUnique_row sel).unique (first hr) ⟨h, matched⟩]

/-- The seven bits of the selection vector (30_encoding.md R85). -/
theorem getLsbD_selVector (i : Input) (s : State) :
    (selVector i s).getLsbD 6 = i.rst ∧ (selVector i s).getLsbD 5 = s.fault ∧ (selVector i s).getLsbD 4 = s.outValid ∧
    (selVector i s).getLsbD 3 = s.full ∧ (selVector i s).getLsbD 2 = i.inError ∧ (selVector i s).getLsbD 1 = i.inValid ∧
    (selVector i s).getLsbD 0 = i.outReady := by
  simp only [selVector, BitVec.getLsbD_append]
  simp

/-! ### The decision rows of a frame -/

theorem startByteOk_iff (f : Frame) : startByteOk f = true ↔ f[0] = Config.startByte := beq_iff_eq

theorem checksumOk_iff (f : Frame) : checksumOk f = true ↔ frameChecksum f = frameSum f := beq_iff_eq

theorem frameDecode_of_checks {f : Frame} (start : f[0] = Config.startByte) (sum : frameChecksum f = frameSum f) :
    frameDecode f = .ok (extractFields f) := by
  rw [frameDecode, if_neg (not_not.mpr start), if_neg (not_not.mpr sum)]

theorem frameDecode_of_checksum_ne {f : Frame} (start : f[0] = Config.startByte) (sum : frameChecksum f ≠ frameSum f) :
    frameDecode f = .error .invalidChecksum := by
  rw [frameDecode, if_neg (not_not.mpr start), if_pos sum]

theorem frameDecode_of_start_ne {f : Frame} (start : f[0] ≠ Config.startByte) : frameDecode f = .error .invalidStartByte := by
  rw [frameDecode, if_pos start]

theorem classifyFrame_mem (f : Frame) : classifyFrame f ∈ [Instr.decOk f, Instr.decBadChecksum f, Instr.decBadStart f] := by
  rcases classifyFrame_cases f with ⟨_, _, h⟩ | ⟨_, _, h⟩ | ⟨_, h⟩ <;> simp [h]

/-- Of the three decision rows of a frame, the one whose condition holds is the one the frame picks (30_encoding.md R87). -/
theorem wellFormed_iff_eq_classifyFrame {f : Frame} {i : Instr}
    (hi : i ∈ [Instr.decOk f, Instr.decBadChecksum f, Instr.decBadStart f]) : i.wellFormed = true ↔ i = classifyFrame f := by
  simp only [List.mem_cons, List.not_mem_nil, or_false] at hi
  rcases classifyFrame_cases f with ⟨hs, hc, h⟩ | ⟨hs, hc, h⟩ | ⟨hs, h⟩
  · rw [← startByteOk_iff] at hs
    rw [← checksumOk_iff] at hc
    rcases hi with rfl | rfl | rfl <;> simp [h, Instr.wellFormed, hs, hc]
  · rw [← startByteOk_iff] at hs
    rw [ne_eq, ← checksumOk_iff, Bool.not_eq_true] at hc
    rcases hi with rfl | rfl | rfl <;> simp [h, Instr.wellFormed, hs, hc]
  · rw [ne_eq, ← startByteOk_iff, Bool.not_eq_true] at hs
    rcases hi with rfl | rfl | rfl <;> simp [h, Instr.wellFormed, hs]

/-- An operation that leaves the block faulted found it faulted, unless it is SOURCE_ERROR. -/
theorem fault_of_exec_next {i : Instr} {s t : State} (hi : i ≠ .sourceError) (h : exec i s = .next t) (ht : t.fault = true) :
    s.fault = true := by
  obtain ⟨_, rfl⟩ := exec_next.mp h
  by_cases hr : i = .reset
  · subst hr
    cases ht
  · rwa [effect_fault_of_ne hi hr] at ht

/-! ### The frame word -/

/-- A digit of a number given by its digits, the lowest first. -/
theorem ofDigits_div_pow_mod {b : Nat} {ds : List Nat} (hds : ∀ d ∈ ds, d < b) {i : Nat} (hi : i < ds.length) :
    Nat.ofDigits b ds / b ^ i % b = ds[i] := by
  have digit : ds[i] < b := hds _ (List.getElem_mem hi)
  rw [Nat.ofDigits_div_pow_eq_ofDigits_drop i (Nat.zero_lt_of_lt digit) _ hds, List.drop_eq_getElem_cons hi,
    Nat.ofDigits_cons, Nat.add_mul_mod_self_left, Nat.mod_eq_of_lt digit]

/-- The bytes of a frame as digits to base 2^8, the last byte lowest. -/
def frameDigits (f : Frame) : List Nat := f.toList.reverse.map BitVec.toNat

@[simp] theorem length_frameDigits (f : Frame) : (frameDigits f).length = 32 := by simp [frameDigits]

theorem lt_of_mem_frameDigits {f : Frame} : ∀ d ∈ frameDigits f, d < 2 ^ 8 := by
  simp only [frameDigits, List.mem_map]
  rintro _ ⟨b, _, rfl⟩
  exact b.isLt

/-- The frame word is the number whose digits are the bytes, byte 0 highest (30_encoding.md R81). -/
theorem toNat_frameWord (f : Frame) : (frameWord f).toNat = Nat.ofDigits (2 ^ 8) (frameDigits f) := by
  have digits : f.toList.foldl (fun n b => n * 256 + b.toNat) 0 = Nat.ofDigits (2 ^ 8) (frameDigits f) := by
    rw [Nat.ofDigits_eq_foldr, frameDigits, List.foldr_map, List.foldr_reverse]
    simp [Nat.mul_comm, Nat.add_comm]
  have fits := Nat.ofDigits_lt_base_pow_length (by norm_num) (lt_of_mem_frameDigits (f := f))
  rw [length_frameDigits, ← pow_mul] at fits
  rw [frameWord, BitVec.toNat_ofNat, digits, Nat.mod_eq_of_lt fits]

theorem extractLsb'_frameWord_byte (f : Frame) {i : Nat} (hi : i < 32) :
    (frameWord f).extractLsb' (248 - 8 * i) 8 = f[i] := by
  apply BitVec.eq_of_toNat_eq
  calc ((frameWord f).extractLsb' (248 - 8 * i) 8).toNat
      = Nat.ofDigits (2 ^ 8) (frameDigits f) / (2 ^ 8) ^ (31 - i) % 2 ^ 8 := by
        rw [BitVec.extractLsb'_toNat, toNat_frameWord, Nat.shiftRight_eq_div_pow, ← pow_mul, Nat.mul_sub]
    _ = (frameDigits f)[31 - i]'(by simp; omega) := ofDigits_div_pow_mod lt_of_mem_frameDigits _
    _ = f[i].toNat := by
        simp only [frameDigits, List.getElem_map, List.getElem_reverse, Vector.length_toList, Vector.getElem_toList]
        congr 2
        omega

/-- Two neighbouring bytes stand in the frame word as one big-endian value (30_encoding.md R81). -/
theorem extractLsb'_frameWord_half (f : Frame) {i : Nat} (hi : i < 31) :
    (frameWord f).extractLsb' (240 - 8 * i) 16 = beU16 f[i] f[i + 1] := by
  rw [beU16, ← extractLsb'_frameWord_byte f (i := i), ← extractLsb'_frameWord_byte f (i := i + 1),
    show 248 - 8 * (i + 1) = 240 - 8 * i by omega,
    BitVec.extractLsb'_append_extractLsb'_eq_extractLsb' (by omega)]

theorem extractLsb'_frameWord_checksum (f : Frame) : (frameWord f).extractLsb' 0 16 = frameChecksum f :=
  extractLsb'_frameWord_half f (i := 30) (by omega)

theorem extractLsb'_frameWord_field (f : Frame) (k : Fin 14) :
    (frameWord f).extractLsb' (224 - 16 * k.val) 16 = (extractFields f)[k.val] := by
  have half := extractLsb'_frameWord_half f (i := 2 + 2 * k.val) (by omega)
  rw [show 240 - 8 * (2 + 2 * k.val) = 224 - 16 * k.val by omega] at half
  rw [half, getElem_extractFields]
  congr 2
  omega

/-- The mask of the decision rows keeps byte 0 alone (30_encoding.md R87). -/
theorem and_startMask_eq_startMatch_iff (x : BitVec 256) :
    x &&& 0xff00000000000000000000000000000000000000000000000000000000000000 =
        0x4200000000000000000000000000000000000000000000000000000000000000 ↔
      x.extractLsb' 248 8 = Config.startByte := by
  have mask : (0xff00000000000000000000000000000000000000000000000000000000000000 : BitVec 256) =
    BitVec.allOnes 8 ++ 0#248 := by decide
  have start : (0x4200000000000000000000000000000000000000000000000000000000000000 : BitVec 256) =
    Config.startByte ++ 0#248 := by decide
  have split : x = x.extractLsb' 248 8 ++ x.extractLsb' 0 248 :=
    (BitVec.extractLsb'_append_extractLsb' (w := 8) (len := 248) (x := x)).symm
  rw [mask, start]
  conv_lhs => rw [split]
  rw [BitVec.and_append, BitVec.and_allOnes, BitVec.and_zero, BitVec.append_left_inj]

/-- The mask and match of the decision rows are the test of the start byte. -/
theorem frameWord_and_startMask_iff (f : Frame) :
    frameWord f &&& 0xff00000000000000000000000000000000000000000000000000000000000000 =
        0x4200000000000000000000000000000000000000000000000000000000000000 ↔ f[0] = Config.startByte := by
  rw [and_startMask_eq_startMatch_iff, ← extractLsb'_frameWord_byte f (i := 0) (by omega)]

/-! ### A frame with another checksum field -/

/-- The checksum field is not summed (41_frame_codec.md R135). -/
theorem frameSum_set_checksum (f : Frame) (hi lo : Byte) : frameSum ((f.set 30 hi).set 31 lo) = frameSum f := by
  rw [frameSum, Vector.toList_set, Vector.toList_set, List.take_set_of_le (by decide), List.take_set_of_le (by decide), frameSum]

theorem frameChecksum_set_checksum (f : Frame) (hi lo : Byte) : frameChecksum ((f.set 30 hi).set 31 lo) = beU16 hi lo := by
  simp [frameChecksum]

theorem getElem_set_checksum (f : Frame) (hi lo : Byte) {i : Nat} (h : i < 30) : ((f.set 30 hi).set 31 lo)[i] = f[i] := by
  rw [Vector.getElem_set_ne _ _ (by omega), Vector.getElem_set_ne _ _ (by omega)]

/-! ### The statements -/

/-- Settles O2: one row each by `existsUnique_row` and `wellFormed_iff_eq_classifyFrame`, the fault by the effect of each operation. -/
theorem everySelectionAndFrameHasOneRow : Obligations.EverySelectionAndFrameHasOneRow := by
  refine ⟨existsUnique_row, fun f => ⟨classifyFrame f, ?_, ?_⟩, selectRow_isSome, fun i s t => fault_of_exec_next⟩
  · exact ⟨classifyFrame_mem f, (wellFormed_iff_eq_classifyFrame (classifyFrame_mem f)).mpr rfl⟩
  · rintro i ⟨mem, wf⟩
    exact (wellFormed_iff_eq_classifyFrame mem).mp wf

/-- Settles O5: a byte is a digit of the frame word, and the checksum and the data fields are two neighbouring bytes. -/
theorem frameWordPlacesBytesAndFields : Obligations.FrameWordPlacesBytesAndFields := fun f =>
  ⟨fun i => extractLsb'_frameWord_byte f i.isLt, extractLsb'_frameWord_checksum f, extractLsb'_frameWord_field f⟩

/-- Settles O6: the mask reads the start byte, and `classifyFrame` and `frameDecode` have the same three cases. -/
theorem frameRowsClassifyAsDecodeDoes : Obligations.FrameRowsClassifyAsDecodeDoes := by
  intro f
  constructor
  · simp only [frameWord_and_startMask_iff, extractLsb'_frameWord_checksum]
    rfl
  · rcases classifyFrame_cases f with ⟨hs, hc, hf⟩ | ⟨hs, hc, hf⟩ | ⟨hs, hf⟩
    · simp [hf, frameDecode_of_checks hs hc]
    · simp [hf, frameDecode_of_checksum_ne hs hc]
    · simp [hf, frameDecode_of_start_ne hs]

/-- Settles O15: the checks read the start byte and the checksum field alone, and the new checksum field is the sum. -/
theorem noFieldValueIsChecked : Obligations.NoFieldValueIsChecked := by
  intro f hi lo start sum
  have start' : ((f.set 30 hi).set 31 lo)[0] = Config.startByte := (getElem_set_checksum f hi lo (by omega)).trans start
  have sum' : frameChecksum ((f.set 30 hi).set 31 lo) = frameSum ((f.set 30 hi).set 31 lo) := by
    rw [frameChecksum_set_checksum, frameSum_set_checksum]
    exact sum
  refine ⟨_, frameDecode_of_checks start' sum', fun k => ?_, ?_⟩
  · rw [getElem_extractFields, getElem_set_checksum f hi lo (by omega), getElem_set_checksum f hi lo (by omega)]
  · rw [getElem_extractFields]
    exact (frameChecksum_set_checksum f hi lo).trans sum

/-- Settles O30: the bits by the concatenation that forms the vector, the rows by `selectRow_eq_some_iff`. -/
theorem selectionRowsAreTheMaskedPatterns : Obligations.SelectionRowsAreTheMaskedPatterns := by
  constructor
  · intro s i
    rw [← State.full_iff]
    obtain ⟨rst, fault, outValid, full, inError, inValid, outReady⟩ := getLsbD_selVector i s
    exact ⟨rst, fault, outValid, by rw [full], inError, inValid, outReady⟩
  · intro sel
    refine ⟨?_, ?_, ?_, ?_, ?_, ?_, ?_, ?_⟩ <;> exact selectRow_eq_some_iff (by decide)

end Sys2Proof.Machine

/-! SUPPORT. The proofs of the statements about the window (40_byte_window.md R117): the step lemma, and with it every run from the start of
a session. -/

namespace Sys2Proof.Machine

/-- What every step keeps, with that step recorded, holds of every run and its record. -/
theorem Run.keeps_record {P : List Event → State → Prop}
    (keep : ∀ h t u i, P h t → selectedOp t = some i → step t = .next u → P (h ++ [⟨i, u.out⟩]) u) {s t : State} {h : List Event}
    (run : Run s h t) (start : P [] s) : P h t := by
  induction run with
  | refl => exact start
  | snoc _ selects steps ih => exact keep _ _ _ _ ih selects steps

/-- The step behind 40_byte_window.md R117, in the order of `step_cases`: RESET and DEC_OK empty the window and begin the bytes afresh, a FILL
adds its byte to both, a failed decision drops the oldest byte held, and the other operations leave both. -/
theorem step_holdsLast_bytesSinceFresh {h : List Event} {t u : State} {i : Instr} (holds : t.holdsLast (bytesSinceFresh h))
    (hi : selectedOp t = some i) (hs : step t = .next u) : u.holdsLast (bytesSinceFresh (h ++ [⟨i, u.out⟩])) := by
  have selected : ∀ {j}, selectedOp t = some j → i = j := fun hj => Option.some.inj (hi.symm.trans hj)
  rw [bytesSinceFresh_snoc]
  rcases step_cases hs with ⟨hj, _, rfl⟩ | ⟨hj, _, rfl⟩ | ⟨hj, _, _, rfl⟩ | ⟨hj, _, _, rfl⟩ | ⟨f, hj, _, _, _, _, _, _, rfl⟩ |
    ⟨f, hj, _, _, full, _, _, _, rfl⟩ | ⟨f, hj, _, _, full, _, _, rfl⟩ | ⟨hj, _, _, _, rfl⟩ | ⟨b, hj, _, _, hlt, rfl⟩ |
    ⟨hj, _, _, _, rfl⟩ <;> obtain rfl := selected hj
  · exact State.holdsLast_of_empty _ rfl rfl
  · exact State.holdsLast_of_same holds rfl rfl
  · exact State.holdsLast_of_same holds rfl rfl
  · exact State.holdsLast_of_same holds rfl rfl
  · exact State.holdsLast_of_empty _ rfl rfl
  · exact State.holdsLast_of_slide holds full rfl (by simp [full])
  · exact State.holdsLast_of_slide holds full rfl (by simp [full])
  · exact State.holdsLast_of_same holds rfl rfl
  · exact State.holdsLast_of_push holds hlt rfl rfl
  · exact State.holdsLast_of_same holds rfl rfl

/-- Settles O57, by the case analysis of a step. -/
theorem stepKeepsTheWindowAtTheLastBytes : Obligations.StepKeepsTheWindowAtTheLastBytes :=
  fun _ _ _ _ holds hi hs => step_holdsLast_bytesSinceFresh holds hi hs

/-- Settles O45: a session starts with an empty window, and every step of the run keeps it at the last bytes. -/
theorem windowIsTheLastBytesConsumed : Obligations.WindowIsTheLastBytesConsumed := by
  rintro r t h ⟨hW, hcnt, _⟩ run
  have holds : t.holdsLast (bytesSinceFresh h) :=
    run.keeps_record (P := fun h t => t.holdsLast (bytesSinceFresh h)) (fun _ _ _ _ => step_holdsLast_bytesSinceFresh)
      (State.holdsLast_of_empty _ hW hcnt)
  exact holds.2

end Sys2Proof.Machine

/-! SUPPORT. The proofs of the statements about the Frame Codec (41_frame_codec.md): the wrap-around sum as an exact sum, its bounds on a
frame, the results of `decode` as conditions, and a frame with another marker byte. -/

namespace Sys2Proof.Machine

/-! ### The sum of bytes -/

/-- The wrap-around sum is the list sum of the extended bytes, so the library's laws of sums apply to it. -/
theorem wrappingSum_eq_sum_map (bs : List Byte) : wrappingSum bs = (bs.map (BitVec.zeroExtend 16)).sum := by
  rw [wrappingSum, ← List.foldl_map, List.sum_eq_foldl]

@[simp] theorem wrappingSum_nil : wrappingSum [] = 0 := rfl

theorem wrappingSum_cons (b : Byte) (bs : List Byte) : wrappingSum (b :: bs) = b.zeroExtend 16 + wrappingSum bs := by
  simp only [wrappingSum_eq_sum_map, List.map_cons, List.sum_cons]

theorem toNat_wrappingSum (bs : List Byte) : (wrappingSum bs).toNat = (bs.map BitVec.toNat).sum % 65536 := by
  induction bs with
  | nil => rfl
  | cons b bs ih =>
    have byte := b.isLt
    rw [wrappingSum_cons, BitVec.toNat_add, ih, BitVec.toNat_setWidth_of_le (by omega), List.map_cons, List.sum_cons]
    omega

theorem wrappingSum_perm {bs cs : List Byte} (h : bs.Perm cs) : wrappingSum bs = wrappingSum cs := by
  simp only [wrappingSum_eq_sum_map, (h.map _).sum_eq]

/-- A byte replaced by another changes the sum by their difference. -/
theorem wrappingSum_set (bs : List Byte) {i : Nat} (hi : i < bs.length) (x : Byte) :
    wrappingSum (bs.set i x) + bs[i].zeroExtend 16 = wrappingSum bs + x.zeroExtend 16 := by
  simp only [wrappingSum_eq_sum_map, List.map_set, List.sum_set']
  simp [hi]
  ring

theorem sum_map_toNat_le (bs : List Byte) : (bs.map BitVec.toNat).sum ≤ bs.length * 255 := by
  have bound := List.sum_le_card_nsmul (bs.map BitVec.toNat) 255 (by
    simp only [List.mem_map]
    rintro _ ⟨b, _, rfl⟩
    exact Nat.le_of_lt_succ b.isLt)
  simpa using bound

theorem toNat_wrappingSum_of_length_le {bs : List Byte} (h : bs.length ≤ 257) :
    (wrappingSum bs).toNat = (bs.map BitVec.toNat).sum := by
  have bound := sum_map_toNat_le bs
  rw [toNat_wrappingSum, Nat.mod_eq_of_lt (by omega)]

/-! ### The sum of a frame -/

theorem toNat_frameSum (f : Frame) : (frameSum f).toNat = ((f.toList.take 30).map BitVec.toNat).sum :=
  toNat_wrappingSum_of_length_le (by simp)

theorem toNat_frameSum_le (f : Frame) : (frameSum f).toNat ≤ 7650 := by
  have bound := sum_map_toNat_le (f.toList.take 30)
  rw [List.length_take_of_le (by simp)] at bound
  rwa [toNat_frameSum]

/-- The start byte and the 29 bytes behind it bound the sum (41_frame_codec.md R132). -/
theorem toNat_frameSum_mem_range (f : Frame) :
    f[0].toNat ≤ (frameSum f).toNat ∧ (frameSum f).toNat ≤ f[0].toNat + 29 * 255 := by
  have lead : f.toList.take 30 = f[0] :: (f.toList.drop 1).take 29 := by
    rw [← Vector.getElem_toList (by simp), ← List.take_succ_cons, List.getElem_cons_drop, List.drop_zero]
  have bound := sum_map_toNat_le ((f.toList.drop 1).take 29)
  rw [List.length_take_of_le (by simp)] at bound
  rw [toNat_frameSum, lead, List.map_cons, List.sum_cons]
  omega

/-! ### The results of `decode` -/

theorem exists_frameDecode_eq_ok_iff (f : Frame) :
    (∃ v, frameDecode f = .ok v) ↔ f[0] = Config.startByte ∧ frameChecksum f = frameSum f := by
  rcases frameDecode_cases f with ⟨hs, hc, h⟩ | ⟨hs, hc, h⟩ | ⟨hs, h⟩
  · simp [h, hs, hc]
  · simp [h, hc]
  · exact iff_of_false (by simp [h]) fun ⟨start, _⟩ => hs start

theorem frameDecode_eq_invalidChecksum_iff (f : Frame) :
    frameDecode f = .error .invalidChecksum ↔ f[0] = Config.startByte ∧ frameChecksum f ≠ frameSum f := by
  rcases frameDecode_cases f with ⟨hs, hc, h⟩ | ⟨hs, hc, h⟩ | ⟨hs, h⟩
  · simp [h, hc]
  · simp [h, hs, hc]
  · exact iff_of_false (by simp [h]) fun ⟨start, _⟩ => hs start

theorem frameDecode_eq_invalidStartByte_iff (f : Frame) :
    frameDecode f = .error .invalidStartByte ↔ f[0] ≠ Config.startByte := by
  rcases frameDecode_cases f with ⟨hs, _, h⟩ | ⟨hs, _, h⟩ | ⟨hs, h⟩
  · simp [h, hs]
  · simp [h, hs]
  · exact iff_of_true h hs

theorem eq_extractFields_of_frameDecode_eq_ok {f : Frame} {v : SensorFrame} (h : frameDecode f = .ok v) : v = extractFields f := by
  obtain ⟨start, sum⟩ := (exists_frameDecode_eq_ok_iff f).mp ⟨v, h⟩
  exact Except.ok.inj (h.symm.trans (frameDecode_of_checks start sum))

/-- `decode` reads the start byte, the checksum field and the sum alone to tell its results apart (41_frame_codec.md R141). -/
theorem frameDecode_result_congr {f g : Frame} (start : f[0] = g[0]) (field : frameChecksum f = frameChecksum g)
    (sum : frameSum f = frameSum g) :
    ((∃ v, frameDecode f = .ok v) ↔ ∃ v, frameDecode g = .ok v) ∧
    ∀ e, frameDecode f = .error e ↔ frameDecode g = .error e := by
  refine ⟨?_, fun e => ?_⟩
  · rw [exists_frameDecode_eq_ok_iff, exists_frameDecode_eq_ok_iff, start, field, sum]
  · cases e with
    | invalidStartByte => rw [frameDecode_eq_invalidStartByte_iff, frameDecode_eq_invalidStartByte_iff, start]
    | invalidChecksum => rw [frameDecode_eq_invalidChecksum_iff, frameDecode_eq_invalidChecksum_iff, start, field, sum]

/-! ### A frame with another marker byte -/

theorem frameSum_set_marker (f : Frame) (x : Byte) :
    frameSum (f.set 1 x) + f[1].zeroExtend 16 = frameSum f + x.zeroExtend 16 := by
  have marker := wrappingSum_set (f.toList.take 30) (i := 1) (by simp) x
  rwa [List.getElem_take, Vector.getElem_toList, ← List.take_set, ← Vector.toList_set] at marker

theorem frameSum_set_marker_ne {f : Frame} {x : Byte} (h : x ≠ f[1]) : frameSum (f.set 1 x) ≠ frameSum f := by
  intro same
  have marker := frameSum_set_marker f x
  rw [same, BitVec.add_right_inj, BitVec.toNat_eq, BitVec.toNat_setWidth_of_le (by omega),
    BitVec.toNat_setWidth_of_le (by omega)] at marker
  exact h (BitVec.eq_of_toNat_eq marker.symm)

theorem frameChecksum_set_marker (f : Frame) (x : Byte) : frameChecksum (f.set 1 x) = frameChecksum f := by
  simp [frameChecksum]

theorem startByte_set_marker (f : Frame) (x : Byte) : (f.set 1 x)[0] = f[0] := Vector.getElem_set_ne _ _ (by omega)

/-- Any frame with the right start byte is accepted with its own sum in the checksum field. -/
theorem frameDecode_set_checksum {f : Frame} {hi lo : Byte} (start : f[0] = Config.startByte) (sum : beU16 hi lo = frameSum f) :
    ∃ v, frameDecode ((f.set 30 hi).set 31 lo) = .ok v := by
  rw [exists_frameDecode_eq_ok_iff, getElem_set_checksum f hi lo (by omega), frameChecksum_set_checksum, frameSum_set_checksum]
  exact ⟨start, sum⟩

/-- The start byte, zeros, and the checksum field 0x2042 = 8192 + 66: right in its low 13 bits, wrong in full (41_frame_codec.md R143). -/
def lowChecksumFrame : Frame := (((Vector.replicate 32 0x00).set 0 0x42).set 30 0x20).set 31 0x42

/-! ### The statements -/

/-- Settles O7: the value of a concatenation, and its corner cases. -/
theorem beU16IsBigEndianAssembly : Obligations.BeU16IsBigEndianAssembly :=
  ⟨fun hi lo => ⟨toNat_beU16 hi lo, rfl⟩, by decide⟩

/-- Settles O8: each clause is a law of list sums. -/
theorem wrappingSumIsTheSumModulo65536 : Obligations.WrappingSumIsTheSumModulo65536 :=
  ⟨toNat_wrappingSum, wrappingSum_nil, fun _ h => toNat_wrappingSum_of_length_le (by omega), fun _ _ => wrappingSum_perm⟩

/-- Settles O9: the checksum field of a valid frame is the sum, whose bounds are those of the start byte and 29 bytes more. -/
theorem checksumSumNeverWrapsAtADecision : Obligations.ChecksumSumNeverWrapsAtADecision := by
  intro f
  have range : f[0] = 0x42 → 66 ≤ (frameSum f).toNat ∧ (frameSum f).toNat ≤ 7461 := fun start => by
    simpa [start] using toNat_frameSum_mem_range f
  refine ⟨toNat_frameSum f, toNat_frameSum_le f, range, fun v h => ?_, fun start outside => ?_⟩
  · obtain ⟨start, sum⟩ := (exists_frameDecode_eq_ok_iff f).mp ⟨v, h⟩
    rw [sum]
    exact range start
  · refine frameDecode_of_checksum_ne start fun sum => ?_
    rw [sum] at outside
    have inside := range start
    omega

/-- Settles O10: the condition by the cases of `decode`, the values by the one result a success has. -/
theorem decodeSucceedsExactlyOnValidFrames : Obligations.DecodeSucceedsExactlyOnValidFrames := by
  refine fun f => ⟨exists_frameDecode_eq_ok_iff f, fun v h => ?_⟩
  obtain rfl := eq_extractFields_of_frameDecode_eq_ok h
  exact ⟨fun k => getElem_extractFields f k.val (by omega), getElem_extractFields f 14 (by omega)⟩

/-- Settles O11, by the cases of `decode`. -/
theorem startByteIsReportedBeforeChecksum : Obligations.StartByteIsReportedBeforeChecksum := fun f =>
  ⟨frameDecode_eq_invalidStartByte_iff f, frameDecode_eq_invalidChecksum_iff f⟩

/-- Settles O12: sums of 30 bytes that are equal modulo 65536 are equal, since neither wraps. -/
theorem validityDependsOnTheSumAlone : Obligations.ValidityDependsOnTheSumAlone := by
  intro f g start field congruent
  rw [← toNat_wrappingSum, ← toNat_wrappingSum] at congruent
  have sum : frameSum f = frameSum g := BitVec.eq_of_toNat_eq congruent
  refine ⟨?_, frameDecode_result_congr start field sum⟩
  rw [← toNat_frameSum, ← toNat_frameSum, sum]

/-- Settles O13: the sum is below 2^13, so no accumulator of 13 bits or more wraps; `lowChecksumFrame` is the frame that the low 13 bits
would accept. -/
theorem thirteenBitAccumulatorIsEnough : Obligations.ThirteenBitAccumulatorIsEnough := by
  constructor
  · intro w f hw
    have fits : (frameSum f).toNat < 2 ^ w :=
      calc (frameSum f).toNat ≤ 7650 := toNat_frameSum_le f
        _ < 2 ^ 13 := by norm_num
        _ ≤ 2 ^ w := Nat.pow_le_pow_right (by norm_num) hw
    rw [← toNat_frameSum, Nat.mod_eq_of_lt fits, ← BitVec.toNat_inj, eq_comm]
  · exact ⟨lowChecksumFrame, by decide⟩

/-- Settles O14: another marker byte moves the sum off the checksum field, and no check reads it but through the sum. -/
theorem markerByteIsSummedButNotChecked : Obligations.MarkerByteIsSummedButNotChecked := by
  refine ⟨frameSum_set_marker, fun f v x h hx => ?_, fun f x hi lo start sum => ?_⟩
  · obtain ⟨start, sum⟩ := (exists_frameDecode_eq_ok_iff f).mp ⟨v, h⟩
    refine frameDecode_of_checksum_ne ((startByte_set_marker f x).trans start) ?_
    rw [frameChecksum_set_marker, sum]
    exact (frameSum_set_marker_ne hx).symm
  · exact frameDecode_set_checksum ((startByte_set_marker f x).trans start) sum

end Sys2Proof.Machine

/-! SUPPORT. The proofs of the statements about the reader loop's operations (42_reader_loop.md R161 to R170): first the operation a
selection vector takes, the phase an operation is taken in, and the slide of a failed decision. -/

namespace Sys2Proof.Machine

/-! ### The operation of a row -/

/-- The operation a row of the map stands for in a state, with its operand (30_encoding.md R86, R87). -/
def rowOp (s : State) : SelOp → Option Instr
  | .reset => some .reset
  | .faultHold => some .faultHold
  | .outAccept => some .outAccept
  | .outWait => some .outWait
  | .decisionPoint => (snapshot s).toOption.map classifyFrame
  | .sourceError => some .sourceError
  | .fill => some (.fill s.nextInput.inByte)
  | .idle => some .idle

theorem selectedOp_of_selectRow {s : State} {op : SelOp} (h : selectRow (selVector s.nextInput s) = some op) :
    selectedOp s = rowOp s op := by
  rw [selectRow_selVector, Option.some.injEq] at h
  rw [selectedOp_eq, ← h]
  simp only [apply_ite (rowOp s)]
  simp only [rowOp]
  cases snapshot s <;> rfl

/-- A selection vector that matches a row's pattern takes that row's operation (30_encoding.md R86). -/
theorem selectedOp_of_pattern {s : State} {op : SelOp} {pattern mask : Sel} (row : ⟨op, pattern, mask⟩ ∈ selTable)
    (h : selVector s.nextInput s &&& mask = pattern) : selectedOp s = rowOp s op :=
  selectedOp_of_selectRow ((selectRow_eq_some_iff row).mpr h)

/-- At a decision point the operation is the decision row of the snapshot. -/
theorem selectedOp_of_decisionPattern {s : State} {f : Frame} (h : selVector s.nextInput s &&& 0x78 = 0x08)
    (snap : snapshot s = .ok f) : selectedOp s = some (classifyFrame f) := by
  rw [selectedOp_of_pattern (op := .decisionPoint) (by decide) h, rowOp, snap]
  rfl

theorem classifyFrame_of_checks {f : Frame} (start : f[0] = Config.startByte) (sum : frameChecksum f = frameSum f) :
    classifyFrame f = .decOk f := by
  rw [classifyFrame, if_pos start, if_pos sum]

theorem classifyFrame_of_checksum_ne {f : Frame} (start : f[0] = Config.startByte) (sum : frameChecksum f ≠ frameSum f) :
    classifyFrame f = .decBadChecksum f := by
  rw [classifyFrame, if_pos start, if_neg sum]

theorem classifyFrame_of_start_ne {f : Frame} (start : f[0] ≠ Config.startByte) : classifyFrame f = .decBadStart f := by
  rw [classifyFrame, if_neg start]

/-- A full window with no frame pending is decided in the next step without reset, whatever the other inputs. -/
theorem selectedOp_of_full {s : State} {f : Frame} (rst : s.nextInput.rst = false) (fault : s.fault = false)
    (outValid : s.outValid = false) (full : s.cnt = 32) (snap : snapshot s = .ok f) : selectedOp s = some (classifyFrame f) := by
  simp [selectedOp_eq, rst, fault, outValid, s.full_iff.mpr full, snap]

/-! ### What a selected operation says of the block -/

/-- The condition on the block's own state under which an operation is taken (42_reader_loop.md R170). -/
def takenIn : Instr → State → Prop
  | .reset, _ => True
  | .faultHold, s => s.phase = .faulted
  | .outAccept, s => s.phase = .output
  | .outWait, s => s.phase = .output
  | .decOk _, s => s.phase = .full
  | .decBadChecksum _, s => s.phase = .full
  | .decBadStart _, s => s.phase = .full
  | .sourceError, s => s.phase = .filling
  | .fill _, s => s.phase = .filling
  | .idle, s => s.phase = .filling

theorem takenIn_of_selectedOp {s : State} {i : Instr} (h : selectedOp s = some i) : takenIn i s := by
  obtain ⟨faulted, output, full, filling⟩ := s.phase_conditions
  rcases selectedOp_cases h with ⟨rfl, _⟩ | ⟨_, ⟨rfl, hf⟩ | ⟨hf, ⟨rfl, hv, _⟩ | ⟨rfl, hv, _⟩ | ⟨hv, ⟨hc, f, _, rfl⟩ | ⟨hc,
    ⟨rfl, _⟩ | ⟨_, ⟨rfl, _⟩ | ⟨rfl, _⟩⟩⟩⟩⟩⟩
  · trivial
  · exact faulted.mpr hf
  · exact output.mpr ⟨hf, hv⟩
  · exact output.mpr ⟨hf, hv⟩
  · have decided := full.mpr ⟨hf, hv, hc⟩
    rcases classifyFrame_cases f with ⟨_, _, g⟩ | ⟨_, _, g⟩ | ⟨_, g⟩ <;> rw [g] <;> exact decided
  · exact filling.mpr ⟨hf, hv, hc⟩
  · exact filling.mpr ⟨hf, hv, hc⟩
  · exact filling.mpr ⟨hf, hv, hc⟩

theorem State.inReady_of_phase_ne {s : State} (h : s.phase ≠ .filling) : s.inReady = false := by
  by_contra ready
  obtain ⟨hf, hv, hc⟩ := s.inReady_iff.mp (by simpa using ready)
  exact h ((State.phase_eq_filling (by omega)).mpr ⟨hf, hv, hc⟩)

/-! ### The phase table -/

/-- A failed decision leaves phase FULL for FILLING, with 31 bytes held (42_reader_loop.md R164, R165). -/
theorem slideState_phase (c : ResultCode) {s : State} (decided : s.phase = .full) :
    (slideState c s).phase = .filling ∧ (slideState c s).cnt = 31 ∧ (slideState c s).resyncing = true := by
  obtain ⟨_, _, full, _⟩ := s.phase_conditions
  obtain ⟨_, _, _, filling⟩ := (slideState c s).phase_conditions
  obtain ⟨hf, hv, hc⟩ := full.mp decided
  have count : (slideState c s).cnt = 31 := by rw [slideState_cnt, hc]; rfl
  exact ⟨filling.mpr ⟨hf, hv, by rw [count]; decide⟩, count, (State.resyncing_iff _).mpr (saturatingSucc_ne_zero _)⟩

@[simp] theorem decOkState_resyncing (f : Frame) (s : State) : (decOkState f s).resyncing = false := by
  simp [State.resyncing]

/-- Settles O43: the phase an operation is taken in by its selection, the phase it leads to by its effect. -/
theorem phaseTransitionsAreTheTable : Obligations.PhaseTransitionsAreTheTable := by
  intro s t i inv hi hs
  have taken := takenIn_of_selectedOp hi
  obtain ⟨⟨_, fits⟩, empty, _⟩ := inv
  obtain ⟨faulted, output, full, filling⟩ := s.phase_conditions
  obtain ⟨faulted', output', full', filling'⟩ := t.phase_conditions
  obtain rfl := step_eq_effect hi hs
  refine ⟨?_, ?_, ?_, ?_, ?_, ?_, ?_, ?_, ?_⟩
  · rintro rfl
    exact ⟨rfl, rfl, rfl⟩
  · rintro b rfl
    obtain ⟨hf, hv, _⟩ := filling.mp taken
    refine ⟨taken, fun below => filling'.mpr ⟨hf, hv, ?_⟩, fun last => full'.mpr ⟨hf, hv, ?_⟩⟩
    · have count : (s.cnt + 1).toNat = s.cnt.toNat + 1 := cnt_succ_toNat (by omega)
      exact (cnt_ne_32_iff (n := s.cnt + 1) (by omega)).mpr (by omega)
    · show s.cnt + 1 = 32
      rw [last]
      rfl
  · rintro rfl
    exact ⟨taken, taken⟩
  · rintro rfl
    exact ⟨taken, rfl⟩
  · rintro f rfl
    obtain ⟨hf, _, _⟩ := full.mp taken
    exact ⟨taken, output'.mpr ⟨(decOkState_fault f _).trans hf, rfl⟩, rfl, decOkState_resyncing f _⟩
  · rintro f (rfl | rfl)
    · exact ⟨taken, slideState_phase .invalidStartByte taken⟩
    · exact ⟨taken, slideState_phase .invalidChecksum taken⟩
  · rintro rfl
    obtain ⟨hf, hv⟩ := output.mp taken
    have count : s.cnt = 0 := empty hv
    exact ⟨taken, filling'.mpr ⟨hf, rfl, by simp [effect, count]⟩, count⟩
  · rintro rfl
    exact ⟨taken, taken⟩
  · rintro rfl
    exact ⟨taken, taken⟩

/-! ### The operations one by one -/

/-- Settles O21: Push writes one cell, and a window filled by it is full, so that the next step decides it. -/
theorem fillPushesTheInputByte : Obligations.FillPushesTheInputByte := by
  refine ⟨fun s h => selectedOp_of_pattern (op := .fill) (by decide) h, fun b s room => ?_,
    fun b s t i filled phase last hs noReset => ?_⟩
  · refine ⟨effect (.fill b) s, exec_next.mpr ⟨room, rfl⟩, cnt_succ_toNat room, fun a => ?_, State.cell_push s b room,
      rfl, rfl, rfl, rfl, rfl, rfl, rfl, rfl⟩
    exact Memory.read_write s.W s.cnt.toNat a b
  · obtain ⟨room, rfl⟩ := exec_next.mp hs
    obtain ⟨_, _, _, filling⟩ := s.phase_conditions
    obtain ⟨hf, hv, _⟩ := filling.mp phase
    have full : (effect (.fill b) s).cnt = 32 := by
      show s.cnt + 1 = 32
      rw [last]
      rfl
    obtain ⟨f, snap, _⟩ := snapshot_of_full (State.windowFilled_push filled room rfl rfl) full
    exact ⟨f, snap, selectedOp_of_full (s := (effect (.fill b) s).withInput i) noReset hf hv full snap⟩

/-- Settles O22: the rows of the three operations, and their effect, which is to leave the state as it is. -/
theorem waitingOperationsChangeNothing : Obligations.WaitingOperationsChangeNothing := by
  refine ⟨fun s h => selectedOp_of_pattern (op := .idle) (by decide) h, fun s h => selectedOp_of_pattern (op := .outWait) (by decide) h,
    fun s h => selectedOp_of_pattern (op := .faultHold) (by decide) h, fun s => ⟨rfl, rfl, rfl⟩, fun s waits => ?_, fun s waits => ?_,
    fun s hf noReset => by simp [selectedOp_eq, hf, noReset]⟩
  · refine ⟨s.beginStep, ?_, ⟨rfl, rfl, rfl, rfl, rfl, rfl, rfl⟩, rfl⟩
    rcases waits with hi | hi | hi <;> exact step_of_selectedOp hi
  · apply State.inReady_of_phase_ne
    rcases waits with hi | hi <;> rw [takenIn_of_selectedOp hi] <;> decide

/-- Settles O23: the decision row of a valid snapshot, and the effect of DEC_OK field by field. -/
theorem decOkEmitsTheFrame : Obligations.DecOkEmitsTheFrame := by
  refine ⟨fun s f h snap start sum => ?_, fun f s => ?_⟩
  · rw [selectedOp_of_decisionPattern h snap, classifyFrame_of_checks start sum]
  · refine ⟨decOkState f s, rfl, rfl, rfl, fun k => ?_, fun v valid => ?_, rfl, fun _ => rfl, fun _ => ?_, rfl, decOkState_resyncing f s,
      rfl, decOkState_fault f s, decOkState_out f s, decOkState_inputs f s, decOkState_freeIndex f s⟩
    · rw [decOkState_O, getElem_extractFields]
    · rw [decOkState_O, eq_extractFields_of_frameDecode_eq_ok valid]
    · simp [State.cell]

/-- A failed decision on a window that holds a byte, whichever its code: the window it leaves. -/
theorem slideState_window {s : State} (c : ResultCode) (holds : (s.cell 0).isSome) :
    (slideState c s).cnt.toNat + 1 = s.cnt.toNat ∧ (∀ a, (slideState c s).cell a = s.cell (a + 1)) ∧
    (s.cnt = 32 → (slideState c s).cnt = 31 ∧ (slideState c s).cell 31 = none) := by
  have pos : 0 < s.cnt.toNat := by
    by_contra zero
    simp [State.cell, zero] at holds
  have cells : ∀ a, (slideState c s).cell a = s.cell (a + 1) := State.cell_popFront s fun zero => by simp [zero] at pos
  refine ⟨?_, cells, fun full => ⟨?_, ?_⟩⟩
  · rw [slideState_cnt]
    bv_omega
  · rw [slideState_cnt, full]
    rfl
  · rw [cells, State.cell, if_neg (by rw [full]; decide)]

/-- Settles O24: the decision row of a snapshot that fails, and the slide. -/
theorem failedDecodeSlidesTheWindow : Obligations.FailedDecodeSlidesTheWindow := by
  refine ⟨fun s f h snap start => ?_, fun s f h snap start sum => ?_, fun f s i c row holds => ?_⟩
  · rw [selectedOp_of_decisionPattern h snap, classifyFrame_of_start_ne start]
  · rw [selectedOp_of_decisionPattern h snap, classifyFrame_of_checksum_ne start sum]
  · obtain ⟨count, cells, last⟩ := slideState_window c holds
    have slides : exec i s = .next (slideState c s) := by
      rcases row with ⟨rfl, rfl⟩ | ⟨rfl, rfl⟩ <;> exact exec_next.mpr ⟨holds, rfl⟩
    exact ⟨slideState c s, slides, count, Memory.read_shiftDown s.W, cells, last, saturatingSucc_toNat _,
      (State.resyncing_iff _).mpr (saturatingSucc_ne_zero _), rfl, rfl, rfl, rfl, rfl, rfl, rfl⟩

/-- Settles O25: the row of OUT_ACCEPT, and its effect field by field. -/
theorem outAcceptDeliversTheFrame : Obligations.OutAcceptDeliversTheFrame := by
  refine ⟨fun s h => selectedOp_of_pattern (op := .outAccept) (by decide) h, fun s pending => ?_, fun s hi => ?_⟩
  · exact ⟨effect .outAccept s, exec_next.mpr ⟨pending, rfl⟩, rfl, rfl, rfl, rfl, rfl, fun _ => rfl, fun _ => rfl, rfl, rfl, rfl, rfl, rfl⟩
  · apply State.inReady_of_phase_ne
    rw [takenIn_of_selectedOp hi]
    decide

/-- Settles O26: the row and the conditions of SOURCE_ERROR, its effect field by field, and that no other operation sets `fault`. -/
theorem sourceErrorEndsTheSession : Obligations.SourceErrorEndsTheSession := by
  refine ⟨fun s h => selectedOp_of_pattern (op := .sourceError) (by decide) h, fun s => ⟨fun hi => ?_, ?_⟩, fun s => ?_,
    fun i s t => fault_of_exec_next⟩
  · rcases selectedOp_cases hi with ⟨⟨⟩, _⟩ | ⟨hr, ⟨⟨⟩, _⟩ | ⟨hf, ⟨⟨⟩, _⟩ | ⟨⟨⟩, _⟩ | ⟨hv, ⟨_, f, _, row⟩ | ⟨hc,
      ⟨_, he⟩ | ⟨_, ⟨⟨⟩, _⟩ | ⟨⟨⟩, _⟩⟩⟩⟩⟩⟩
    · rcases classifyFrame_cases f with ⟨_, _, g⟩ | ⟨_, _, g⟩ | ⟨_, g⟩ <;> cases row.trans g
    · exact ⟨hf, hv, hc, hr, he⟩
  · rintro ⟨hf, hv, hc, hr, he⟩
    have filling : s.full = false := by simpa [State.full] using hc
    simp [selectedOp_eq, hr, hf, hv, he, filling]
  · exact ⟨raiseSourceError s, rfl, rfl, rfl, rfl, rfl, rfl, rfl, fun _ => rfl, fun _ => rfl, rfl, rfl, rfl, rfl, rfl⟩

end Sys2Proof.Machine

/-! SUPPORT. The proofs of the statements about the reader loop's streams (42_reader_loop.md R172 to R181): first what a step does to the
stream terms, the scan ahead of the window, the runs of a session, and the laws of the scan. -/

namespace Sys2Proof.Machine

/-! ### What a step does to the stream terms -/

theorem State.toList_readO (s : State) : s.readO.toList = if s.outValid then [s.O] else [] := by
  cases h : s.outValid <;> simp [State.readO, h]

@[simp] theorem State.readO_beginStep (s : State) : s.beginStep.readO = s.readO := rfl

@[simp] theorem okFrames_decOk (n : Nat) (f : Frame) : okFrames (decisionOf n (.decOk f)) = [extractFields f] := rfl

/-- A frame decoded is pending until it is delivered: what is pending and what a step decodes are what it delivers and what it leaves
pending. -/
theorem step_frames {t u : State} {i : Instr} (hi : selectedOp t = some i) (hr : i ≠ .reset) (hs : step t = .next u) (n : Nat) :
    t.readO.toList ++ okFrames (decisionOf n i) = u.out.delivered.toList ++ u.readO.toList := by
  have selected : ∀ {j}, selectedOp t = some j → i = j := fun hj => Option.some.inj (hi.symm.trans hj)
  rcases step_cases hs with ⟨hj, _⟩ | ⟨hj, _, rfl⟩ | ⟨hj, _, hv, rfl⟩ | ⟨hj, _, _, rfl⟩ | ⟨f, hj, _, hv, _, _, _, _, rfl⟩ |
    ⟨f, hj, _, hv, _, _, _, _, rfl⟩ | ⟨f, hj, _, hv, _, _, _, rfl⟩ | ⟨hj, _, hv, _, rfl⟩ | ⟨b, hj, _, hv, _, rfl⟩ |
    ⟨hj, _, hv, _, rfl⟩ <;> obtain rfl := selected hj
  · exact absurd rfl hr
  · simp [decisionOf, okFrames]
  · simp [State.readO, decisionOf, okFrames, hv]
  · simp [decisionOf, okFrames]
  · simp [State.readO, hv]
  all_goals simp [State.readO, decisionOf, okFrames, hv]

/-- What a step of a session does to the window and the counts of its record, for the operation and for any output record: it leaves them,
fills, empties the window after a success, or slides it after a failure. -/
inductive StreamStep (t : State) (i : Instr) (u : State) : Prop where
  /-- IDLE, OUT_WAIT, OUT_ACCEPT, FAULT_HOLD and SOURCE_ERROR. -/
  | held (bytes : ∀ o, Event.consumedByte ⟨i, o⟩ = none) (decides : ∀ n, decisionOf n i = []) (ok : ∀ o, Event.isOk ⟨i, o⟩ = false)
      (fail : ∀ o, Event.isFail ⟨i, o⟩ = false) (window : u.W = t.W) (count : u.cnt = t.cnt)
      (resync : u.resyncCount = t.resyncCount)
  /-- FILL. -/
  | filled (b : Byte) (op : i = .fill b) (room : t.cnt.toNat < 32) (window : u.W = t.W.write t.cnt.toNat b) (count : u.cnt = t.cnt + 1)
      (resync : u.resyncCount = t.resyncCount)
  /-- DEC_OK. -/
  | emitted (f : Frame) (op : i = .decOk f) (full : t.cnt = 32) (snap : snapshot t = .ok f)
      (valid : frameDecode f = .ok (extractFields f)) (window : u.W = []) (count : u.cnt = 0)
  /-- DEC_BAD_START and DEC_BAD_CHECKSUM. -/
  | slid (f : Frame) (err : FrameDecodeError) (bytes : ∀ o, Event.consumedByte ⟨i, o⟩ = none)
      (decides : ∀ n, decisionOf n i = [⟨n - 32, f, .error err⟩]) (ok : ∀ o, Event.isOk ⟨i, o⟩ = false)
      (fail : ∀ o, Event.isFail ⟨i, o⟩ = true) (full : t.cnt = 32) (snap : snapshot t = .ok f) (invalid : frameDecode f = .error err)
      (window : u.W = t.W.shiftDown) (count : u.cnt = 31) (resync : u.resyncCount = saturatingSucc t.resyncCount)

theorem streamStep_of_step {t u : State} {i : Instr} (hi : selectedOp t = some i) (hr : i ≠ .reset) (hs : step t = .next u) :
    StreamStep t i u := by
  have selected : ∀ {j}, selectedOp t = some j → i = j := fun hj => Option.some.inj (hi.symm.trans hj)
  rcases step_cases hs with ⟨hj, _⟩ | ⟨hj, _, rfl⟩ | ⟨hj, _, _, rfl⟩ | ⟨hj, _, _, rfl⟩ | ⟨f, hj, _, _, full, snap, start, sum, rfl⟩ |
    ⟨f, hj, _, _, full, snap, start, sum, rfl⟩ | ⟨f, hj, _, _, full, snap, start, rfl⟩ | ⟨hj, _, _, _, rfl⟩ | ⟨b, hj, _, _, room, rfl⟩ |
    ⟨hj, _, _, _, rfl⟩ <;> obtain rfl := selected hj
  · exact absurd rfl hr
  · exact .held (fun _ => rfl) (fun _ => rfl) (fun _ => rfl) (fun _ => rfl) rfl rfl rfl
  · exact .held (fun _ => rfl) (fun _ => rfl) (fun _ => rfl) (fun _ => rfl) rfl rfl rfl
  · exact .held (fun _ => rfl) (fun _ => rfl) (fun _ => rfl) (fun _ => rfl) rfl rfl rfl
  · exact .emitted f rfl full snap (frameDecode_of_checks start sum) rfl rfl
  · exact .slid f .invalidChecksum (fun _ => rfl) (fun _ => rfl) (fun _ => rfl) (fun _ => rfl) full snap
      (frameDecode_of_checksum_ne start sum) rfl (by simp [full]) rfl
  · exact .slid f .invalidStartByte (fun _ => rfl) (fun _ => rfl) (fun _ => rfl) (fun _ => rfl) full snap
      (frameDecode_of_start_ne start) rfl (by simp [full]) rfl
  · exact .held (fun _ => rfl) (fun _ => rfl) (fun _ => rfl) (fun _ => rfl) rfl rfl rfl
  · exact .filled b rfl room rfl rfl rfl
  · exact .held (fun _ => rfl) (fun _ => rfl) (fun _ => rfl) (fun _ => rfl) rfl rfl rfl

/-- Every step of a session keeps the window at the last bytes consumed. -/
theorem StreamStep.holdsLast {h : List Event} {t u : State} {i : Instr} (stream : StreamStep t i u)
    (holds : t.holdsLast (consumedBytes h)) : u.holdsLast (consumedBytes (h ++ [⟨i, u.out⟩])) := by
  rw [consumedBytes_snoc]
  cases stream with
  | held bytes _ _ _ window count =>
    rw [bytes, Option.toList_none, List.append_nil]
    exact State.holdsLast_of_same holds window count
  | filled b op room window count =>
    subst op
    exact State.holdsLast_of_push holds room window count
  | emitted f op full snap valid window count => exact State.holdsLast_of_empty _ window count
  | slid f err bytes _ _ _ full _ _ window count =>
    rw [bytes, Option.toList_none, List.append_nil]
    exact State.holdsLast_of_slide holds full window count

/-! ### The scan ahead of the window -/

/-- The decisions `ds`, then the scan of the bytes `w` held at position `p`, are the scan of the stream `s` (42_reader_loop.md R174). -/
def onScan (s : List Byte) (ds : List Decision) (p : Nat) (w : List Byte) : Prop :=
  scan s = (ds ++ (scanFrom w.length p w).1, (scanFrom w.length p w).2)

theorem onScan_iff_of_short {s w : List Byte} {ds : List Decision} {p : Nat} (short : w.length < 32) :
    onScan s ds p w ↔ scan s = (ds, w) := by
  rw [onScan, scanFrom_short short, List.append_nil]

/-- A byte more in the stream is a byte more in a window that is not full. -/
theorem onScan_push {s w : List Byte} {ds : List Decision} {p : Nat} (on : onScan s ds p w) (short : w.length < 32)
    (len : p + w.length = s.length) (b : Byte) : onScan (s ++ [b]) ds p (w ++ [b]) := by
  rw [onScan_iff_of_short short, scan] at on
  have more := scanFrom_append s.length 0 s [b] (s ++ [b]).length (w ++ [b]).length le_rfl le_rfl (by rw [on])
  rw [on, show 0 + s.length - w.length = p by omega] at more
  exact more

/-- A decision on a full window takes the scan's next entry; after a success no byte is held. -/
theorem onScan_ok {s : List Byte} {ds : List Decision} {p q : Nat} {f : Frame} {v : SensorFrame} (on : onScan s ds p f.toList)
    (valid : frameDecode f = .ok v) : onScan s (ds ++ [⟨p, f, .ok v⟩]) q [] := by
  rw [onScan, Vector.length_toList, scanFrom_ok valid] at on
  exact (onScan_iff_of_short (by simp)).mpr on

/-- After a failure all bytes but the oldest are held. -/
theorem onScan_error {s : List Byte} {ds : List Decision} {p q : Nat} {f : Frame} {e : FrameDecodeError}
    (on : onScan s ds p f.toList) (invalid : frameDecode f = .error e) : onScan s (ds ++ [⟨p, f, .error e⟩]) q f.toList.tail := by
  rw [onScan, Vector.length_toList, scanFrom_error invalid] at on
  exact (onScan_iff_of_short (by simp)).mpr on

/-- The bytes the window of a state holds, by the record of the steps that led to it. -/
def heldBytes (h : List Event) (t : State) : List Byte := (consumedBytes h).drop (windowPos h t)

theorem length_heldBytes {h : List Event} {t : State} (holds : t.holdsLast (consumedBytes h)) :
    (heldBytes h t).length = t.cnt.toNat := by
  obtain ⟨_, fits, _⟩ := holds
  rw [heldBytes, List.length_drop, windowPos, Nat.sub_sub_self fits]

theorem windowPos_add_cnt {h : List Event} {t : State} (holds : t.holdsLast (consumedBytes h)) :
    windowPos h t + t.cnt.toNat = (consumedBytes h).length := by
  obtain ⟨_, fits, _⟩ := holds
  exact Nat.sub_add_cancel fits

theorem windowPos_of_push {h h' : List Event} {t u : State} {b : Byte} (bytes : consumedBytes h' = consumedBytes h ++ [b])
    (room : t.cnt.toNat < 32) (count : u.cnt = t.cnt + 1) : windowPos h' u = windowPos h t := by
  rw [windowPos, bytes, count, cnt_succ_toNat room, List.length_append, List.length_singleton, Nat.add_sub_add_right]

theorem windowPos_of_slide {h h' : List Event} {t u : State} (holds : t.holdsLast (consumedBytes h))
    (bytes : consumedBytes h' = consumedBytes h) (full : t.cnt = 32) (count : u.cnt = 31) :
    windowPos h' u = windowPos h t + 1 := by
  obtain ⟨_, fits, _⟩ := holds
  rw [full, show (32 : BitVec 6).toNat = 32 from rfl] at fits
  rw [windowPos, windowPos, bytes, full, count, show (32 : BitVec 6).toNat = 32 from rfl, show (31 : BitVec 6).toNat = 31 from rfl]
  omega

/-- The window of a decision is the frame it decides on. -/
theorem heldBytes_of_snapshot {h : List Event} {t : State} {f : Frame} (holds : t.holdsLast (consumedBytes h)) (full : t.cnt = 32)
    (snap : snapshot t = .ok f) : heldBytes h t = f.toList := by
  rw [heldBytes, windowPos, full]
  exact State.holdsLast_snapshot holds full snap

theorem followsScan_iff (h : List Event) (t : State) :
    followsScan h t ↔ t.holdsLast (consumedBytes h) ∧
      onScan (consumedBytes h) (decisions h) (windowPos h t) (heldBytes h t) ∧
      okFrames (decisions h) = deliveredFrames h ++ t.readO.toList := by
  rw [State.toList_readO]
  refine and_congr_right fun holds => ?_
  rw [onScan, length_heldBytes holds]
  rfl

/-- Every step of a session keeps the decisions taken on the scan. -/
theorem StreamStep.onScan {h : List Event} {t u : State} {i : Instr} (stream : StreamStep t i u)
    (holds : t.holdsLast (consumedBytes h)) (on : onScan (consumedBytes h) (decisions h) (windowPos h t) (heldBytes h t)) :
    Machine.onScan (consumedBytes (h ++ [⟨i, u.out⟩])) (decisions (h ++ [⟨i, u.out⟩])) (windowPos (h ++ [⟨i, u.out⟩]) u)
      (heldBytes (h ++ [⟨i, u.out⟩]) u) := by
  have left := length_heldBytes (stream.holdsLast holds)
  have pos := windowPos_add_cnt holds
  rw [decisions_snoc]
  cases stream with
  | held bytes decides _ _ _ count =>
    simpa only [heldBytes, windowPos, consumedBytes_snoc, bytes, decides, count, Option.toList_none, List.append_nil] using on
  | filled b op room _ count =>
    subst op
    have bytes : consumedBytes (h ++ [⟨.fill b, u.out⟩]) = consumedBytes h ++ [b] := consumedBytes_snoc ..
    have pushed := onScan_push on (by rwa [length_heldBytes holds]) (by rwa [length_heldBytes holds]) b
    rwa [decisionOf, List.append_nil, heldBytes, windowPos_of_push bytes room count, bytes,
      List.drop_append_of_le_length (by omega)]
  | emitted f op full snap valid _ count =>
    subst op
    rw [count] at left
    rw [heldBytes_of_snapshot holds full snap, windowPos, full] at on
    rw [List.eq_nil_of_length_eq_zero left, consumedBytes_snoc, Event.consumedByte, Option.toList_none, List.append_nil]
    exact onScan_ok on valid
  | slid f err bytes decides _ _ full snap invalid _ count =>
    have same : consumedBytes (h ++ [⟨i, u.out⟩]) = consumedBytes h := by simp [consumedBytes_snoc, bytes]
    have tail : heldBytes (h ++ [⟨i, u.out⟩]) u = (heldBytes h t).tail := by
      rw [heldBytes, heldBytes, same, windowPos_of_slide holds same full count, List.tail_drop]
    rw [heldBytes_of_snapshot holds full snap] at on tail
    rw [windowPos, full] at on
    rw [tail, decides, same]
    exact onScan_error on invalid

/-- The step behind 42_reader_loop.md R174. -/
theorem step_followsScan {h : List Event} {t u : State} {i : Instr} (follows : followsScan h t) (hi : selectedOp t = some i)
    (hr : i ≠ .reset) (hs : step t = .next u) : followsScan (h ++ [⟨i, u.out⟩]) u := by
  obtain ⟨holds, on, frames⟩ := (followsScan_iff h t).mp follows
  have stream := streamStep_of_step hi hr hs
  refine (followsScan_iff _ u).mpr ⟨stream.holdsLast holds, stream.onScan holds on, ?_⟩
  rw [decisions_snoc, okFrames_append, deliveredFrames_snoc, frames, List.append_assoc, step_frames hi hr hs, List.append_assoc]

/-! ### The hunt for the first frame -/

theorem decodeAt_of_drop {s : List Byte} {p : Nat} {f : Frame} (h : s.drop p = f.toList) : decodeAt s p = some (frameDecode f) := by
  rw [decodeAt, h, takeFrame_toList]
  rfl

/-- The step behind 42_reader_loop.md R176: a failed decision passes over the one window it decided, and nothing else moves the window. -/
theorem step_huntsFirstFrame {h : List Event} {t u : State} {i : Instr} (hunts : huntsFirstFrame h t) (hi : selectedOp t = some i)
    (hr : i ≠ .reset) (hok : ∀ f, i ≠ .decOk f) (hs : step t = .next u) : huntsFirstFrame (h ++ [⟨i, u.out⟩]) u := by
  have stream := streamStep_of_step hi hr hs
  obtain ⟨holds, passed, fails, shown⟩ := hunts
  refine ⟨stream.holdsLast holds, ?_⟩
  cases stream with
  | held bytes _ _ fail _ count resync =>
    have same : consumedBytes (h ++ [⟨i, u.out⟩]) = consumedBytes h := by simp [consumedBytes_snoc, bytes]
    have window : windowPos (h ++ [⟨i, u.out⟩]) u = windowPos h t := by rw [windowPos, same, count]
    rw [same, window, resync, List.countP_append, List.countP_singleton, fail]
    exact ⟨passed, fails, shown⟩
  | filled b op room _ count resync =>
    subst op
    have more : consumedBytes (h ++ [⟨.fill b, u.out⟩]) = consumedBytes h ++ [b] := consumedBytes_snoc ..
    rw [windowPos_of_push more room count, more, resync, List.countP_append, List.countP_singleton, Event.isFail]
    refine ⟨fun j hj => ?_, fails, shown⟩
    obtain ⟨e, failed⟩ := passed j hj
    exact ⟨e, decodeAt_append failed⟩
  | emitted f op => exact absurd op (hok f)
  | slid f err bytes _ _ fail full snap invalid _ count resync =>
    have same : consumedBytes (h ++ [⟨i, u.out⟩]) = consumedBytes h := by simp [consumedBytes_snoc, bytes]
    have failed : decodeAt (consumedBytes h) (windowPos h t) = some (.error err) := by
      rw [decodeAt_of_drop (heldBytes_of_snapshot holds full snap), invalid]
    rw [windowPos_of_slide holds same full count, same, resync, saturatingSucc_toNat, List.countP_append, List.countP_singleton,
      fail, fails, shown]
    refine ⟨fun j hj => ?_, rfl, by omega⟩
    rcases Nat.lt_succ_iff_lt_or_eq.mp hj with hlt | rfl
    · exact passed j hlt
    · exact ⟨err, failed⟩

/-! ### The start of a session, and its runs -/

/-- What every step with an allowed operation keeps, with that step recorded, holds of every run of such steps. -/
theorem Run.keeps_record_of_forall {P : List Event → State → Prop} {Q : Instr → Prop}
    (keep : ∀ h t u i, P h t → Q i → selectedOp t = some i → step t = .next u → P (h ++ [⟨i, u.out⟩]) u) {s t : State}
    {h : List Event} (run : Run s h t) (start : P [] s) (allowed : ∀ e ∈ h, Q e.op) : P h t := by
  induction run with
  | refl => exact start
  | snoc _ selects steps ih =>
    obtain ⟨before, last⟩ := List.forall_mem_append.mp allowed
    exact keep _ _ _ _ (ih before) (last _ (List.mem_singleton_self _)) selects steps

theorem State.sessionStart.Inv {r : State} (start : r.sessionStart) : r.Inv := by
  obtain ⟨hW, hcnt, hv, _⟩ := start
  exact State.Inv_of_not_outValid (State.windowFilled_of_empty hW hcnt) hv

theorem followsScan_of_sessionStart {r : State} (start : r.sessionStart) : followsScan [] r := by
  obtain ⟨hW, hcnt, hv, _⟩ := start
  refine (followsScan_iff [] r).mpr ⟨State.holdsLast_of_empty _ hW hcnt,
    (onScan_iff_of_short (by simp [heldBytes, consumedBytes])).mpr ?_, ?_⟩
  · rw [heldBytes, consumedBytes, List.filterMap_nil, List.drop_nil]
    rfl
  · rw [State.toList_readO, hv]
    rfl

theorem huntsFirstFrame_of_sessionStart {r : State} (start : r.sessionStart) : huntsFirstFrame [] r := by
  obtain ⟨hW, hcnt, _, _, hresync, _⟩ := start
  have pos : windowPos [] r = 0 := Nat.zero_sub _
  refine ⟨State.holdsLast_of_empty _ hW hcnt, fun j hj => ?_, pos.symm, ?_⟩
  · rw [pos] at hj
    exact absurd hj (Nat.not_lt_zero j)
  · rw [pos, hresync]
    rfl

section Session

variable {r t : State} {h : List Event} (start : r.sessionStart) (run : Run r h t) (session : oneSession h)
include start run session

theorem followsScan_of_run : followsScan h t :=
  run.keeps_record_of_forall (P := followsScan) (Q := fun i => i ≠ .reset ∧ i ≠ .sourceError)
    (fun _ _ _ _ follows allowed hi hs => step_followsScan follows hi allowed.1 hs) (followsScan_of_sessionStart start) session

/-- Before the first DEC_OK of a session. -/
theorem huntsFirstFrame_of_run (noOk : ∀ e ∈ h, e.isOk = false) : huntsFirstFrame h t := by
  refine run.keeps_record_of_forall (P := huntsFirstFrame) (Q := fun i => i ≠ .reset ∧ ∀ f, i ≠ .decOk f)
    (fun _ _ _ _ hunts allowed hi hs => step_huntsFirstFrame hunts hi allowed.1 allowed.2 hs) (huntsFirstFrame_of_sessionStart start)
    fun e he => ⟨(session e he).1, fun f hf => ?_⟩
  have := noOk e he
  rw [Event.isOk, hf] at this
  cases this

theorem decisions_isPrefix_scan : decisions h <+: (scan (consumedBytes h)).1 := by
  obtain ⟨_, on, _⟩ := (followsScan_iff h t).mp (followsScan_of_run start run session)
  exact ⟨_, congrArg Prod.fst on.symm⟩

end Session

/-! ### The laws of the scan -/

/-- The position at which the scan goes on after a decision (42_reader_loop.md R174). -/
def Decision.nextPos (d : Decision) : Nat :=
  match d.result with
  | .ok _ => d.pos + 32
  | .error _ => d.pos + 1

theorem Decision.nextPos_of_ok {d : Decision} {v : SensorFrame} (h : d.result = .ok v) : d.nextPos = d.pos + 32 := by
  rw [Decision.nextPos, h]

theorem Decision.nextPos_of_error {d : Decision} {e : FrameDecodeError} (h : d.result = .error e) : d.nextPos = d.pos + 1 := by
  rw [Decision.nextPos, h]

theorem Decision.pos_lt_nextPos (d : Decision) : d.pos < d.nextPos := by
  unfold Decision.nextPos
  split <;> omega

/-- The decision stands on a stream: its window is the 32 bytes at its position, and its result is their decode. -/
def Decision.on (s : List Byte) (d : Decision) : Prop :=
  (∃ rest, takeFrame (s.drop d.pos) = some (d.window, rest)) ∧ d.result = frameDecode d.window

theorem Decision.on.decodeAt_eq {s : List Byte} {d : Decision} (on : d.on s) : decodeAt s d.pos = some d.result := by
  obtain ⟨⟨rest, frame⟩, result⟩ := on
  rw [decodeAt, frame, result]
  rfl

theorem Decision.on.window_eq {s : List Byte} {d : Decision} (on : d.on s) : d.window.toList = (s.drop d.pos).take 32 := by
  obtain ⟨⟨rest, frame⟩, _⟩ := on
  rw [takeFrame_eq_some.mp frame, List.take_left' d.window.length_toList]

/-- One turn of the scan: it stops, or takes one decision and goes on at that decision's next position. -/
theorem scanFrom_succ (n p : Nat) (s : List Byte) :
    (scanFrom (n + 1) p (s.drop p)).1 = [] ∨
    ∃ d : Decision, d.pos = p ∧ d.on s ∧
      (scanFrom (n + 1) p (s.drop p)).1 = d :: (scanFrom n d.nextPos (s.drop d.nextPos)).1 := by
  cases frame : takeFrame (s.drop p) with
  | none => exact .inl (by simp [scanFrom, frame])
  | some taken =>
    obtain ⟨f, rest⟩ := taken
    refine .inr ⟨⟨p, f, frameDecode f⟩, rfl, ⟨⟨rest, frame⟩, rfl⟩, ?_⟩
    have left : s.drop (p + 32) = rest := by
      rw [← List.drop_drop, takeFrame_eq_some.mp frame, List.drop_left' f.length_toList]
    cases result : frameDecode f <;> simp [scanFrom, frame, result, Decision.nextPos, left]

/-- The scan's decisions stand on the stream, each at the next position of the one before it, the first where the scan begins. -/
theorem scanFrom_laws (n p : Nat) (s : List Byte) :
    (∀ d ∈ (scanFrom n p (s.drop p)).1, d.on s) ∧
    (scanFrom n p (s.drop p)).1.IsChain (fun d e => e.pos = d.nextPos) ∧
    ∀ d ∈ (scanFrom n p (s.drop p)).1.head?, d.pos = p := by
  induction n generalizing p with
  | zero => simp [scanFrom]
  | succ n ih =>
    rcases scanFrom_succ n p s with stop | ⟨d, pos, on, turn⟩
    · simp [stop]
    · obtain ⟨rest, chain, first⟩ := ih d.nextPos
      rw [turn]
      exact ⟨List.forall_mem_cons.mpr ⟨on, rest⟩, List.isChain_cons.mpr ⟨first, chain⟩, by simp [pos]⟩

/-- A decision is past the bytes that an earlier one discards. -/
def Decision.before (d e : Decision) : Prop := d.nextPos ≤ e.pos

theorem Decision.before_trans {d e f : Decision} (de : d.before e) (ef : e.before f) : d.before f :=
  (le_trans de e.pos_lt_nextPos.le).trans ef

theorem pairwise_before_of_chain {ds : List Decision} (chain : ds.IsChain fun d e => e.pos = d.nextPos) :
    ds.Pairwise Decision.before := by
  have trans : Trans Decision.before Decision.before Decision.before := ⟨Decision.before_trans⟩
  have forward : ds.IsChain Decision.before := chain.imp fun _ _ next => next.ge
  exact forward.pairwise

section Session

variable {r t : State} {h : List Event} (start : r.sessionStart) (run : Run r h t) (session : oneSession h)
include start run session

/-- The decisions of a session stand on the bytes consumed. -/
theorem decisions_on : ∀ d ∈ decisions h, d.on (consumedBytes h) := by
  obtain ⟨ahead, scanned⟩ := decisions_isPrefix_scan start run session
  intro d hd
  exact (scanFrom_laws _ 0 _).1 d (scanned ▸ List.mem_append_left ahead hd)

/-- Each decision of a session but the first is at the next position of the one before it. -/
theorem decisions_chain : (decisions h).IsChain fun d e => e.pos = d.nextPos := by
  obtain ⟨ahead, scanned⟩ := decisions_isPrefix_scan start run session
  obtain ⟨_, chain, _⟩ := scanFrom_laws (consumedBytes h).length 0 (consumedBytes h)
  exact List.IsChain.left_of_append (scanned ▸ chain : (decisions h ++ ahead).IsChain _)

theorem decisions_pairwise : (decisions h).Pairwise Decision.before :=
  pairwise_before_of_chain (decisions_chain start run session)

end Session

/-! ### The first frame behind garbage -/

theorem snapshot_of_selected_decOk {s : State} {f : Frame} (h : selectedOp s = some (.decOk f)) :
    s.cnt = 32 ∧ snapshot s = .ok f := by
  rcases selectedOp_cases h with ⟨⟨⟩, _⟩ | ⟨_, ⟨⟨⟩, _⟩ | ⟨_, ⟨⟨⟩, _⟩ | ⟨⟨⟩, _⟩ | ⟨_, ⟨full, g, snap, hg⟩ | ⟨_,
    ⟨⟨⟩, _⟩ | ⟨_, ⟨⟨⟩, _⟩ | ⟨⟨⟩, _⟩⟩⟩⟩⟩⟩
  rcases classifyFrame_cases g with ⟨_, _, row⟩ | ⟨_, _, row⟩ | ⟨_, row⟩
  · obtain rfl : f = g := Instr.decOk.inj (hg.trans row)
    exact ⟨full, snap⟩
  · cases hg.trans row
  · cases hg.trans row

/-- Two windows that both decode, with every window before either one failing, stand at the same position. -/
theorem eq_of_first_ok {s : List Byte} {p q : Nat} {v w : SensorFrame} (hp : decodeAt s p = some (.ok v))
    (hq : decodeAt s q = some (.ok w)) (before_p : ∀ j, j < p → ∃ e, decodeAt s j = some (.error e))
    (before_q : ∀ j, j < q → ∃ e, decodeAt s j = some (.error e)) : p = q := by
  rcases Nat.lt_trichotomy p q with lt | eq | lt
  · obtain ⟨e, failed⟩ := before_q p lt
    cases failed.symm.trans hp
  · exact eq
  · obtain ⟨e, failed⟩ := before_p q lt
    cases failed.symm.trans hq

/-! ### The accounting of bytes, and runs without a source error -/

/-- Every byte consumed is held, or a decision discarded it: 32 in a success, one in a failure (42_reader_loop.md R179). -/
def accounted (h : List Event) (t : State) : Prop :=
  (consumedBytes h).length = 32 * h.countP Event.isOk + h.countP Event.isFail + t.cnt.toNat

theorem StreamStep.accounted {h : List Event} {t u : State} {i : Instr} (stream : StreamStep t i u) (acc : accounted h t) :
    Machine.accounted (h ++ [⟨i, u.out⟩]) u := by
  rw [Machine.accounted] at *
  rw [consumedBytes_snoc, List.length_append, List.countP_append, List.countP_append, List.countP_singleton, List.countP_singleton, acc]
  cases stream with
  | held bytes _ ok fail _ count => simp [bytes, ok, fail, count]
  | filled b op room _ count =>
    rw [count, cnt_succ_toNat room]
    simp [op, Event.consumedByte, Event.isOk, Event.isFail, Nat.add_assoc]
  | emitted f op full _ _ _ count =>
    simp +arith [op, Event.consumedByte, Event.isOk, Event.isFail, full, count]
  | slid f err bytes _ ok fail full _ _ _ count =>
    simp +arith [bytes, ok, fail, full, count]

theorem accounted_of_run {r t : State} {h : List Event} (start : r.sessionStart) (run : Run r h t) (session : oneSession h) :
    accounted h t := by
  obtain ⟨_, hcnt, _⟩ := start
  exact run.keeps_record_of_forall (P := accounted) (Q := fun i => i ≠ .reset ∧ i ≠ .sourceError)
    (fun _ _ _ _ acc allowed hi hs => (streamStep_of_step hi allowed.1 hs).accounted acc) (by rw [accounted, hcnt]; rfl) session

/-- Only SOURCE_ERROR raises `fault`. -/
theorem step_fault_of_ne {t u : State} {i : Instr} (hi : selectedOp t = some i) (he : i ≠ .sourceError) (hs : step t = .next u)
    (hf : t.fault = false) : u.fault = false := by
  rw [step_of_selectedOp hi] at hs
  by_contra faulted
  have before : t.beginStep.fault = true := fault_of_exec_next he hs (by simpa using faulted)
  cases hf.symm.trans before

theorem exists_selectedOp_of_windowFilled {s : State} (filled : s.windowFilled) : ∃ i, selectedOp s = some i := by
  rw [selectedOp_eq]
  by_cases full : s.full = true
  · obtain ⟨f, snap, _⟩ := snapshot_of_full filled (s.full_iff.mp full)
    rw [snap]
    split_ifs <;> exact ⟨_, rfl⟩
  · rw [if_neg full]
    split_ifs <;> exact ⟨_, rfl⟩

/-- A selected operation finds what it needs: a frame to deliver, a byte to pop, a cell to push to. -/
theorem precondition_of_selectedOp {s : State} {i : Instr} (fits : s.cnt.toNat ≤ 32) (h : selectedOp s = some i) :
    precondition i s.beginStep := by
  rcases selectedOp_cases h with ⟨rfl, _⟩ | ⟨_, ⟨rfl, _⟩ | ⟨_, ⟨rfl, hv, _⟩ | ⟨rfl, hv, _⟩ | ⟨_, ⟨_, f, snap, rfl⟩ | ⟨hc,
    ⟨rfl, _⟩ | ⟨_, ⟨rfl, _⟩ | ⟨rfl, _⟩⟩⟩⟩⟩⟩
  · trivial
  · trivial
  · exact hv
  · trivial
  · have oldest : (s.cell 0).isSome := by
      rw [(snapshot_eq_ok s f).mp snap ⟨0, by omega⟩]
      rfl
    rcases classifyFrame_cases f with ⟨_, _, row⟩ | ⟨_, _, row⟩ | ⟨_, row⟩ <;> rw [row]
    · trivial
    · exact oldest
    · exact oldest
  · trivial
  · exact (cnt_ne_32_iff fits).mp hc
  · trivial

/-- A filled window is all the next step needs to answer (60_exceptions.md R203). -/
theorem exists_step_of_windowFilled {s : State} (filled : s.windowFilled) : ∃ t, step s = .next t := by
  obtain ⟨i, hi⟩ := exists_selectedOp_of_windowFilled filled
  refine ⟨effect i s.beginStep, ?_⟩
  rw [step_of_selectedOp hi]
  exact exec_next.mpr ⟨precondition_of_selectedOp filled.2 hi, rfl⟩

/-! ### The statements about streams -/

/-- Settles O58: the window, the scan and the frames each by the case analysis of a step. -/
theorem stepKeepsTheDecisionsOnTheScan : Obligations.StepKeepsTheDecisionsOnTheScan :=
  fun _ _ _ _ follows hi hr hs => step_followsScan follows hi hr hs

/-- Settles O59: only a failed decision passes over a window, and that window failed. -/
theorem stepKeepsTheHuntForTheFirstFrame : Obligations.StepKeepsTheHuntForTheFirstFrame :=
  fun _ _ _ _ hunts hi hr hok hs => step_huntsFirstFrame hunts hi hr hok hs

/-- Settles O46: what a run of the session keeps; in phase FILLING fewer than 32 bytes are held, which the scan leaves. -/
theorem decisionsFollowTheScanOfTheStream : Obligations.DecisionsFollowTheScanOfTheStream := by
  intro r t h start run session
  have follows := followsScan_of_run start run session
  obtain ⟨holds, on, frames⟩ := (followsScan_iff h t).mp follows
  obtain ⟨⟨_, capacity⟩, _, cells⟩ := id holds
  refine ⟨decisions_isPrefix_scan start run session, fun filling => ?_, ⟨_, frames.symm⟩, fun hv => ?_, fun hv => ?_⟩
  · obtain ⟨_, _, room⟩ := (State.phase_eq_filling capacity).mp filling
    rw [onScan_iff_of_short (by rwa [length_heldBytes holds])] at on
    rw [on]
    exact ⟨rfl, cells⟩
  · simpa [State.readO, hv] using frames.symm
  · simpa [State.readO, hv] using frames

/-- Settles O47: the decisions stand on the bytes consumed, and each is past the bytes that the ones before it discard. -/
theorem windowsStartAfreshOrSlideByOne : Obligations.WindowsStartAfreshOrSlideByOne := by
  intro r t h start run session
  refine ⟨fun d hd => (decisions_on start run session d hd).window_eq, fun d e ds es fs v split ok => ?_,
    fun d e ds fs err split error => ?_⟩
  · have ordered := decisions_pairwise start run session
    rw [split] at ordered
    obtain ⟨_, _, later⟩ := List.pairwise_append.mp ordered
    have past : d.before e := later d (by simp) e List.mem_cons_self
    rwa [Decision.before, Decision.nextPos_of_ok ok] at past
  · have chain := decisions_chain start run session
    rw [split] at chain
    obtain ⟨_, next, _⟩ := List.isChain_append_cons_cons.mp chain
    rw [next, Decision.nextPos_of_error error]

/-- Settles O48: the decisions before the false one end by its position, and those after it are past its 32 bytes. -/
theorem falseSyncSkipsTheOverlappingFrame : Obligations.FalseSyncSkipsTheOverlappingFrame := by
  intro r t h d ds es v k start run session split ok after within
  have ordered := decisions_pairwise start run session
  rw [split] at ordered ⊢
  obtain ⟨_, later, earlier⟩ := List.pairwise_append.mp ordered
  have past : ∀ e ∈ es, d.pos + 32 ≤ e.pos := fun e he => by
    rw [← Decision.nextPos_of_ok ok]
    exact List.rel_of_pairwise_cons later he
  refine ⟨?_, fun e he => ?_, fun e he => ⟨within.trans_le (past e he), past e he⟩⟩
  · exact List.mem_filterMap.mpr ⟨d, by simp, by simp [ok]⟩
  · rcases List.mem_append.mp he with he | he
    · have ends : e.nextPos ≤ d.pos := earlier e he d List.mem_cons_self
      have := e.pos_lt_nextPos
      omega
    · rcases List.mem_cons.mp he with rfl | he
      · omega
      · have := past e he
        omega

/-- Settles O49: each result is the decode at its position, and a success discards its 32 bytes. -/
theorem emittedFramesAreOrderedAndDisjoint : Obligations.EmittedFramesAreOrderedAndDisjoint := by
  intro r t h start run session
  obtain ⟨_, _, frames⟩ := (followsScan_iff h t).mp (followsScan_of_run start run session)
  refine ⟨fun d hd => (decisions_on start run session d hd).decodeAt_eq, ?_, ⟨_, frames.symm⟩⟩
  refine ((decisions_pairwise start run session).filter _).imp_of_mem fun {d e} hd _ before => ?_
  obtain ⟨_, ok⟩ := List.mem_filter.mp hd
  cases result : d.result with
  | ok v => rwa [← Decision.nextPos_of_ok result]
  | error err => simp [result] at ok

/-- Settles O50: the window decided on and the frame behind the garbage are both the first that decodes. -/
theorem resynchronisesAfterGarbage : Obligations.ResynchronisesAfterGarbage := by
  rintro r t h g rest f f' v start run session noOk hi ⟨more, stream⟩ valid garbage
  obtain ⟨holds, passed, fails, shown⟩ := huntsFirstFrame_of_run start run session noOk
  obtain ⟨full, snap⟩ := snapshot_of_selected_decOk hi
  have held : (consumedBytes h).drop (windowPos h t) = f'.toList := heldBytes_of_snapshot holds full snap
  have pos : windowPos h t + 32 = (consumedBytes h).length := by
    have sum := windowPos_add_cnt holds
    rwa [full] at sum
  have decided : decodeAt (consumedBytes h) (windowPos h t) = some (.ok (extractFields f')) := by
    rw [decodeAt_of_drop held, frameDecode_of_selected_decOk hi]
  have behind : (g ++ f.toList ++ rest).drop g.length = f.toList ++ rest := by simp
  have first : windowPos h t = g.length := by
    refine eq_of_first_ok (v := extractFields f') (w := v) (stream ▸ decodeAt_append decided) ?_ (fun j hj => ?_) garbage
    · rw [decodeAt, behind, takeFrame_append, ← valid]
      rfl
    · obtain ⟨e, failed⟩ := passed j hj
      exact ⟨e, stream ▸ decodeAt_append failed⟩
  have same : f' = f := by
    rw [← stream, ← first, List.drop_append_of_le_length (by omega), held] at behind
    exact Vector.toList_inj.mp (List.append_inj_left behind (by simp))
  subst same
  obtain rfl := eq_extractFields_of_frameDecode_eq_ok valid
  exact ⟨rfl, rfl, fails.trans first, by omega, first ▸ shown⟩

/-- Settles O51, by the case analysis of a step. -/
theorem bytesConsumedAreAccountedFor : Obligations.BytesConsumedAreAccountedFor :=
  fun _ _ _ => accounted_of_run

/-- Settles O53: only SOURCE_ERROR raises `fault`, and under the invariant the next step answers. -/
theorem failedDecodesAreNeverFatal : Obligations.FailedDecodesAreNeverFatal := by
  refine ⟨fun f i s t decision hs => ?_, fun r t h start run noError => ?_⟩
  · obtain ⟨_, rfl⟩ := exec_next.mp hs
    rcases decision with rfl | rfl | rfl
    · exact decOkState_fault f s
    · rfl
    · rfl
  · have inv : t.Inv := run.keeps (fun _ _ => step_keeps_Inv) start.Inv
    obtain ⟨_, _, _, fault, _⟩ := start
    refine ⟨?_, exists_step_of_windowFilled inv.1⟩
    exact run.keeps_record_of_forall (P := fun _ t => t.fault = false) (Q := fun i => i ≠ .sourceError)
      (fun _ _ _ _ clear allowed hi hs => step_fault_of_ne hi allowed hs clear) fault noError

end Sys2Proof.Machine

/-! SUPPORT. The proofs of the statements about exceptions and events (60_exceptions.md R204, R205, R207): first the selection under a given
record of inputs, the output record of a step, and where a frame at the output port comes from. -/

namespace Sys2Proof.Machine

/-! ### The selection under a given record of inputs -/

@[simp] theorem State.nextInput_withInput (s : State) (i : Input) : (s.withInput i).nextInput = i := rfl

@[simp] theorem State.full_withInput (s : State) (i : Input) : (s.withInput i).full = s.full := rfl

@[simp] theorem snapshot_withInput (s : State) (i : Input) : snapshot (s.withInput i) = snapshot s := rfl

/-- The decision row of a frame with the checks in the order of 41_frame_codec.md R139, the start byte first. -/
theorem some_classifyFrame (f : Frame) :
    some (classifyFrame f) =
      if f[0] ≠ Config.startByte then some (.decBadStart f)
      else if frameChecksum f ≠ frameSum f then some (.decBadChecksum f)
      else some (.decOk f) := by
  rcases classifyFrame_cases f with ⟨start, sum, row⟩ | ⟨start, sum, row⟩ | ⟨start, row⟩
  · rw [row, if_neg (not_not.mpr start), if_neg (not_not.mpr sum)]
  · rw [row, if_neg (not_not.mpr start), if_pos sum]
  · rw [row, if_pos start]

/-! ### The output record of a step -/

/-- The output record of a step from a state, by the operation it takes (42_reader_loop.md R160, 60_exceptions.md R204). -/
def stepOutput : Instr → State → Output
  | .reset, s => s.startOutput
  | .faultHold, s => s.startOutput
  | .outAccept, s => { s.startOutput with delivered := some s.O }
  | .outWait, s => s.startOutput
  | .decOk _, s => { s.startOutput with evt := some .ok }
  | .decBadChecksum _, s => { s.startOutput with evt := some .invalidChecksum }
  | .decBadStart _, s => { s.startOutput with evt := some .invalidStartByte }
  | .sourceError, s => { s.startOutput with evt := some .sourceError }
  | .fill _, s => { s.startOutput with consumed := true }
  | .idle, s => s.startOutput

theorem step_out {s t : State} {i : Instr} (hi : selectedOp s = some i) (hs : step s = .next t) : t.out = stepOutput i s := by
  obtain rfl := step_eq_effect hi hs
  cases i <;> rfl

theorem stepOutput_inReady (i : Instr) (s : State) : (stepOutput i s).inReady = s.inReady := by cases i <;> rfl

theorem stepOutput_consumed_iff (i : Instr) (s : State) : (stepOutput i s).consumed = true ↔ ∃ b, i = .fill b := by
  cases i <;> simp [stepOutput, State.startOutput]

theorem stepOutput_delivered_iff (i : Instr) (s : State) (v : SensorFrame) :
    (stepOutput i s).delivered = some v ↔ i = .outAccept ∧ v = s.O := by
  cases i <;> simp [stepOutput, State.startOutput, eq_comm]

/-- Each of the codes 1 to 4 is reported by one operation. -/
theorem stepOutput_evt_iff (i : Instr) (s : State) :
    ((stepOutput i s).evt = some .ok ↔ ∃ f, i = .decOk f) ∧
    ((stepOutput i s).evt = some .invalidStartByte ↔ ∃ f, i = .decBadStart f) ∧
    ((stepOutput i s).evt = some .invalidChecksum ↔ ∃ f, i = .decBadChecksum f) ∧
    ((stepOutput i s).evt = some .sourceError ↔ i = .sourceError) := by
  cases i <;> simp [stepOutput, State.startOutput]

theorem stepOutput_evt_isSome_iff (i : Instr) (s : State) :
    (stepOutput i s).evt.isSome ↔ (∃ f, i = .decOk f ∨ i = .decBadStart f ∨ i = .decBadChecksum f) ∨ i = .sourceError := by
  cases i <;> simp [stepOutput, State.startOutput]

theorem ResultCode.code_injective : Function.Injective ResultCode.code := by
  intro c d h
  cases c <;> cases d <;> simp_all [ResultCode.code]

theorem State.evtCode_eq_some_code_iff (s : State) (c : ResultCode) : s.evtCode = some c.code ↔ s.out.evt = some c := by
  rw [State.evtCode, ← Option.map_some, (Option.map_injective ResultCode.code_injective).eq_iff]

/-- FILL is taken by a block that is ready for a byte (10_state.md R44). -/
theorem inReady_of_fill {s t : State} {b : Byte} (hi : selectedOp s = some (.fill b)) (hs : step s = .next t) : s.inReady = true := by
  rw [step_of_selectedOp hi] at hs
  have room : s.cnt.toNat < 32 := (exec_next.mp hs).1
  have filling : s.phase = .filling := takenIn_of_selectedOp hi
  exact s.inReady_iff.mpr ((State.phase_eq_filling room.le).mp filling)

/-! ### The frames at the output port -/

/-- The value is the decode of a window that a DEC_OK step of the record decided on. -/
def decodedIn (h : List Event) (v : SensorFrame) : Prop :=
  ∃ (f : Frame) (e : Event), e ∈ h ∧ e.op = .decOk f ∧ frameDecode f = .ok v

theorem decodedIn.append {h : List Event} {v : SensorFrame} (decoded : decodedIn h v) (h' : List Event) : decodedIn (h ++ h') v := by
  obtain ⟨f, e, mem, op, valid⟩ := decoded
  exact ⟨f, e, List.mem_append_left h' mem, op, valid⟩

theorem decodedIn_snoc_decOk (h : List Event) {f : Frame} {v : SensorFrame} (valid : frameDecode f = .ok v) (o : Output) :
    decodedIn (h ++ [⟨.decOk f, o⟩]) v :=
  ⟨f, ⟨.decOk f, o⟩, by simp, rfl, valid⟩

theorem mem_okFrames_decisionOf {n : Nat} {i : Instr} {v : SensorFrame} (h : v ∈ okFrames (decisionOf n i)) :
    ∃ f, i = .decOk f ∧ v = extractFields f := by
  cases i <;> simp_all [decisionOf, okFrames]

/-- A frame that a step delivers or leaves pending was pending before it, or the step is the DEC_OK that decodes it. -/
theorem step_frame_origin {t u : State} {i : Instr} {v : SensorFrame} (hi : selectedOp t = some i) (hs : step t = .next u)
    (hv : v ∈ u.out.delivered.toList ++ u.readO.toList) : v ∈ t.readO.toList ∨ ∃ f, i = .decOk f ∧ frameDecode f = .ok v := by
  by_cases hr : i = .reset
  · subst hr
    obtain rfl := step_eq_effect hi hs
    cases hv
  · rw [← step_frames hi hr hs 0] at hv
    refine (List.mem_append.mp hv).imp_right fun new => ?_
    obtain ⟨f, rfl, rfl⟩ := mem_okFrames_decisionOf new
    exact ⟨f, rfl, frameDecode_of_selected_decOk hi⟩

/-- The frames that have reached the output port are decoded ones (60_exceptions.md R205). -/
def outputsDecoded (h : List Event) (t : State) : Prop := ∀ v ∈ deliveredFrames h ++ t.readO.toList, decodedIn h v

theorem step_outputsDecoded {h : List Event} {t u : State} {i : Instr} (outputs : outputsDecoded h t) (hi : selectedOp t = some i)
    (hs : step t = .next u) : outputsDecoded (h ++ [⟨i, u.out⟩]) u := by
  intro v hv
  rw [deliveredFrames_snoc, List.append_assoc, List.mem_append] at hv
  rcases hv with earlier | now
  · exact (outputs v (List.mem_append_left _ earlier)).append _
  · rcases step_frame_origin hi hs now with pending | ⟨f, rfl, valid⟩
    · exact (outputs v (List.mem_append_right _ pending)).append _
    · exact decodedIn_snoc_decOk h valid u.out

theorem outputsDecoded_of_sessionStart {r : State} (start : r.sessionStart) : outputsDecoded [] r := by
  obtain ⟨_, _, noFrame, _⟩ := start
  simp [outputsDecoded, deliveredFrames, State.readO, noFrame]

/-- Runs with RESET and SOURCE_ERROR steps among them are covered. -/
theorem outputsDecoded_of_run {r t : State} {h : List Event} (start : r.sessionStart) (run : Run r h t) : outputsDecoded h t :=
  run.keeps_record_of_forall (P := outputsDecoded) (Q := fun _ => True) (fun _ _ _ _ outputs _ hi hs => step_outputsDecoded outputs hi hs)
    (outputsDecoded_of_sessionStart start) fun _ _ => trivial

/-! ### The statements -/

/-- Settles O31: the selection of a step, with the decision row of the snapshot written as its two checks in order. -/
theorem selectionFollowsThePriorityOrder : Obligations.SelectionFollowsThePriorityOrder := by
  intro s i
  rw [selectedOp_eq, State.nextInput_withInput, State.full_withInput, snapshot_withInput, State.withInput_fault,
    State.withInput_outValid]
  simp only [State.full_iff]
  cases snapshot s with
  | error e => rfl
  | ok f =>
    simp only [some_classifyFrame]
    rfl

/-- Settles O32: the output record of the operation taken, clause by clause. -/
theorem outputRecordOfEveryStep : Obligations.OutputRecordOfEveryStep := by
  intro s t i hi hs
  have out := step_out hi hs
  obtain ⟨ok, badStart, badChecksum, sourceError⟩ := stepOutput_evt_iff i s
  have consumed := stepOutput_consumed_iff i s
  rw [← out] at ok badStart badChecksum sourceError consumed
  refine ⟨?_, consumed, fun h => ?_, fun v => ?_, (t.evtCode_eq_some_code_iff .ok).trans ok,
    (t.evtCode_eq_some_code_iff .invalidStartByte).trans badStart, (t.evtCode_eq_some_code_iff .invalidChecksum).trans badChecksum,
    (t.evtCode_eq_some_code_iff .sourceError).trans sourceError, ?_⟩
  · rw [out, stepOutput_inReady]
  · obtain ⟨b, rfl⟩ := consumed.mp h
    exact inReady_of_fill hi hs
  · rw [out, stepOutput_delivered_iff]
  · rw [State.evtValid, out, stepOutput_evt_isSome_iff]

/-- Settles O54: what a run keeps of its delivered frames and the pending one. -/
theorem onlyDecodedFramesReachTheOutput : Obligations.OnlyDecodedFramesReachTheOutput := by
  intro r t h start run
  have outputs := outputsDecoded_of_run start run
  refine ⟨fun v delivered => outputs v (List.mem_append_left _ delivered), fun v pending => ?_⟩
  exact outputs v (List.mem_append_right _ (Option.mem_toList.mpr pending))

end Sys2Proof.Machine

/-! SUPPORT. The proof of the statement about the restart (70_reset_and_hazards.md R230): first what a session's start shows of itself, then
the step that leads to one. -/

namespace Sys2Proof.Machine

/-! ### What the start of a session shows -/

section
variable {s : State} (start : s.sessionStart)
include start

theorem State.sessionStart.cell (a : Nat) : s.cell a = none := by
  obtain ⟨_, count, _⟩ := start
  simp [State.cell, count]

theorem State.sessionStart.readO : s.readO = none := by
  obtain ⟨_, _, noFrame, _⟩ := start
  simp [State.readO, noFrame]

/-- Every field of STATUS shows its value after reset (10_state.md R45). -/
theorem State.sessionStart.status : s.status = 0x0000 := by
  obtain ⟨_, count, noFrame, noFault, noResync, noResult⟩ := start
  rw [State.status, State.resyncing, count, noFrame, noFault, noResync, noResult]
  rfl

theorem State.sessionStart.phase : s.phase = .filling := by
  obtain ⟨_, count, noFrame, noFault, _⟩ := start
  exact (State.phase_eq_filling (by simp [count])).mpr ⟨noFault, noFrame, by simp [count]⟩

end

/-! ### The restart -/

theorem restart_sessionStart (s : State) : (restart s).sessionStart := ⟨rfl, rfl, rfl, rfl, rfl, rfl⟩

/-- `rst` is first in the priority order, so the step restarts whatever the phase (60_exceptions.md R207). -/
theorem step_of_rst {s : State} (rst : s.nextInput.rst = true) : step s = .next (restart s.beginStep) := by
  have selected : selectedOp s = some .reset := by rw [selectedOp_eq, if_pos rst]
  exact (step_of_selectedOp selected).trans (execReset_eq _)

/-- Settles O19: the row of RESET, and its effect, which is the start of a session with the output record as it was. -/
theorem resetBeginsANewSession : Obligations.ResetBeginsANewSession := by
  refine ⟨fun s h => selectedOp_of_pattern (op := .reset) (by decide) h, fun s => ?_, fun s rst => ?_⟩
  · have start := restart_sessionStart s
    exact ⟨restart s, rfl, rfl, fun _ => rfl, start.cell, rfl, start.readO, rfl, rfl, rfl, start.status, start.phase, rfl, rfl, rfl⟩
  · exact ⟨restart s.beginStep, step_of_rst rst, restart_sessionStart _, rfl, rfl, rfl⟩

end Sys2Proof.Machine

/-! SUPPORT. The proofs of the statements about the byte form of an operation (30_encoding.md R86, R87): what the decoder reads behind a row's
selection byte, and from it exactly which bytes decode to an operation. -/

namespace Sys2Proof.Machine

/-! ### The operand bytes of a row -/

/-- What the decoder reads behind a selection byte of the row: the operand bytes of the row's operation, and the bytes after them. -/
def decodeOperand : SelOp → List Byte → Except DecodeError (Instr × List Byte)
  | .reset, bs => .ok (.reset, bs)
  | .faultHold, bs => .ok (.faultHold, bs)
  | .outAccept, bs => .ok (.outAccept, bs)
  | .outWait, bs => .ok (.outWait, bs)
  | .decisionPoint, bs =>
    match takeFrame bs with
    | some (f, rest) => .ok (classifyFrame f, rest)
    | none => .error .shortFrame
  | .sourceError, bs => .ok (.sourceError, bs)
  | .fill, b :: rest => .ok (.fill b, rest)
  | .fill, [] => .error .noInputByte
  | .idle, bs => .ok (.idle, bs)

theorem decode_selByte {sel : Sel} {op : SelOp} (row : selectRow sel = some op) (bs : List Byte) :
    decode (selByte sel :: bs) = decodeOperand op bs := by
  simp only [decode, selByte_bit7, setWidth_selByte, row]
  cases op <;> cases bs <;> rfl

/-- Bytes that decode begin with the selection byte of some selection vector. -/
theorem exists_selByte_of_decode_ok {bs : List Byte} {r : Instr × List Byte} (h : decode bs = .ok r) :
    ∃ sel tail, bs = selByte sel :: tail := by
  cases bs with
  | nil => cases h
  | cons b tail =>
    cases bit7 : b.getLsbD 7 with
    | true => simp [decode, bit7] at h
    | false => exact ⟨b.setWidth 7, tail, by rw [selByte_setWidth b bit7]⟩

theorem classifyFrame_selOp (f : Frame) : (classifyFrame f).selOp = .decisionPoint := by
  rcases classifyFrame_cases f with ⟨_, _, row⟩ | ⟨_, _, row⟩ | ⟨_, row⟩ <;> rw [row] <;> rfl

theorem classifyFrame_operandBytes (f : Frame) : (classifyFrame f).operandBytes = f.toList := by
  rcases classifyFrame_cases f with ⟨_, _, row⟩ | ⟨_, _, row⟩ | ⟨_, row⟩ <;> rw [row] <;> rfl

theorem classifyFrame_wellFormed (f : Frame) : (classifyFrame f).wellFormed = true :=
  (wellFormed_iff_eq_classifyFrame (classifyFrame_mem f)).mpr rfl

/-- A well-formed operation of a decision row is the one that its frame picks (30_encoding.md R87). -/
theorem exists_eq_classifyFrame {i : Instr} (wf : i.wellFormed = true) (row : i.selOp = .decisionPoint) :
    ∃ f, i = classifyFrame f := by
  cases i with
  | decOk f => exact ⟨f, (wellFormed_iff_eq_classifyFrame (by simp)).mp wf⟩
  | decBadChecksum f => exact ⟨f, (wellFormed_iff_eq_classifyFrame (by simp)).mp wf⟩
  | decBadStart f => exact ⟨f, (wellFormed_iff_eq_classifyFrame (by simp)).mp wf⟩
  | _ => cases row

/-- Behind a selection byte of a row the decoder reads exactly the well-formed operations of that row. -/
theorem decodeOperand_eq_ok {op : SelOp} {i : Instr} {bs rest : List Byte} :
    decodeOperand op bs = .ok (i, rest) ↔ i.wellFormed = true ∧ i.selOp = op ∧ bs = i.operandBytes ++ rest := by
  cases op with
  | decisionPoint =>
    constructor
    · intro h
      cases frame : takeFrame bs with
      | none => simp [decodeOperand, frame] at h
      | some taken =>
        obtain ⟨f, left⟩ := taken
        obtain ⟨rfl, rfl⟩ : classifyFrame f = i ∧ left = rest := by simpa [decodeOperand, frame] using h
        rw [classifyFrame_operandBytes]
        exact ⟨classifyFrame_wellFormed f, classifyFrame_selOp f, takeFrame_eq_some.mp frame⟩
    · rintro ⟨wf, row, rfl⟩
      obtain ⟨f, rfl⟩ := exists_eq_classifyFrame wf row
      rw [classifyFrame_operandBytes, decodeOperand, takeFrame_append]
  | fill => cases bs <;> cases i <;> simp [decodeOperand, Instr.wellFormed, Instr.selOp, Instr.operandBytes]
  | _ => cases i <;> simp [decodeOperand, Instr.wellFormed, Instr.selOp, Instr.operandBytes]

/-- The bytes that decode to an operation: a selection byte of its row and its operand bytes, the operation being well formed. -/
theorem decode_eq_ok {bs rest : List Byte} {i : Instr} :
    decode bs = .ok (i, rest) ↔
      i.wellFormed = true ∧ ∃ sel : Sel, bs = selByte sel :: (i.operandBytes ++ rest) ∧ selectRow sel = some i.selOp := by
  constructor
  · intro h
    obtain ⟨sel, tail, rfl⟩ := exists_selByte_of_decode_ok h
    obtain ⟨op, row⟩ := Option.isSome_iff_exists.mp (selectRow_isSome sel)
    rw [decode_selByte row] at h
    obtain ⟨wf, rfl, rfl⟩ := decodeOperand_eq_ok.mp h
    exact ⟨wf, sel, rfl, row⟩
  · rintro ⟨wf, sel, rfl, row⟩
    rw [decode_selByte row]
    exact decodeOperand_eq_ok.mpr ⟨wf, rfl, rfl⟩

/-! ### The statements -/

/-- Settles O3: an encoding begins with the operation's own pattern, which selects its row. -/
theorem decodeOfEncodeIsTheOperation : Obligations.DecodeOfEncodeIsTheOperation :=
  fun i _ wf => decode_eq_ok.mpr ⟨wf, i.selPattern, rfl, selectRow_selPattern i⟩

/-- Settles O4: the other direction of `decode_eq_ok`. -/
theorem decodedBytesAreTheOperationsEncoding : Obligations.DecodedBytesAreTheOperationsEncoding :=
  fun _ _ _ => decode_eq_ok.mp

/-- Settles O1, by running the decoder on each word. -/
theorem listedWordsDecodeToTheirOperations : Obligations.ListedWordsDecodeToTheirOperations := by
  unfold Obligations.ListedWordsDecodeToTheirOperations
  decide

end Sys2Proof.Machine

/-! SUPPORT. The proofs of the statements about the step and its invariants: where an operation stops (logs 5, 6, 7), which inputs a step samples
(42_reader_loop.md R160), what every state of a session meets (10_state.md R40, R47), and the progress of each phase (42_reader_loop.md R180). -/

namespace Sys2Proof.Machine

/-! ### Where an operation stops -/

theorem execFill_fault {b : Byte} {s : State} {e : Fault} : execFill b s = .fault e ↔ e = .noSuchCell ∧ 32 ≤ s.cnt.toNat := by
  rw [← push_eq_error (b := b), execFill]
  cases push b s <;> simp

theorem slide_fault {c : ResultCode} {s : State} {e : Fault} : slide c s = .fault e ↔ e = .cellHoldsNoValue ∧ s.cell 0 = none := by
  rw [← popFront_eq_error, slide]
  cases popFront s <;> simp

theorem execOutAccept_refused {s : State} {r : Refusal} :
    execOutAccept s = .refused r ↔ r = .frameHoldsNoValue ∧ s.outValid = false := by
  rw [execOutAccept, State.readO]
  cases s.outValid <;> simp [eq_comm]

/-! ### What a step depends on -/

theorem selectedOp_of_decode {s : State} {bs rest : List Byte} {i : Instr} (fetched : fetchOp s.nextInput s = .ok bs)
    (decoded : decode bs = .ok (i, rest)) : selectedOp s = some i := by
  simp only [selectedOp, fetched, decoded]

/-- With no operation to take, the step stops at the snapshot: only a decision point can lack its operand. -/
theorem step_of_selectedOp_eq_none {s : State} (h : selectedOp s = none) : step s = .fault .cellHoldsNoValue := by
  obtain ⟨op, row⟩ := Option.isSome_iff_exists.mp (selectRow_isSome (selVector s.nextInput s))
  rw [selectedOp_of_selectRow row] at h
  cases op with
  | decisionPoint =>
    cases snap : snapshot s with
    | ok f => simp [rowOp, snap, Except.toOption] at h
    | error e =>
      obtain ⟨rfl, _⟩ := (snapshot_eq_error s e).mp snap
      simp only [step, fetchOp, row, snap]
  | _ => cases h

/-- A step samples its inputs through the operation it selects, and through nothing else. -/
theorem step_withInput_congr {s : State} {i j : Input} (same : selectedOp (s.withInput i) = selectedOp (s.withInput j)) :
    step (s.withInput i) = step (s.withInput j) := by
  cases hi : selectedOp (s.withInput i) with
  | none => rw [step_of_selectedOp_eq_none hi, step_of_selectedOp_eq_none (same ▸ hi)]
  | some op =>
    rw [step_of_selectedOp hi, step_of_selectedOp (same ▸ hi)]
    rfl

/-- The operation a step takes with a given record of inputs, phase by phase (42_reader_loop.md R170, 60_exceptions.md R207). -/
theorem selectedOp_withInput (s : State) (i : Input) :
    selectedOp (s.withInput i) =
      if i.rst then some .reset
      else match s.phase with
        | .faulted => some .faultHold
        | .output => if i.outReady then some .outAccept else some .outWait
        | .full => (snapshot s).toOption.map classifyFrame
        | .filling => if i.inError then some .sourceError else if i.inValid then some (.fill i.inByte) else some .idle := by
  rw [selectedOp_eq, State.nextInput_withInput, State.full_withInput, snapshot_withInput, State.withInput_fault,
    State.withInput_outValid, State.phase]
  cases s.fault <;> cases s.outValid <;> cases s.full <;> cases snapshot s <;> rfl

/-! ### The result invariant -/

theorem State.sessionStart.resultInv {s : State} (start : s.sessionStart) : s.resultInv := by
  obtain ⟨_, _, noFrame, noFault, noResync, noResult⟩ := start
  simp [State.resultInv, noFrame, noFault, noResync, noResult]

/-- A decision that fails leaves its code behind. -/
theorem slideState_resultInv {c : ResultCode} {s : State} (fault : s.fault = false) (outValid : s.outValid = false)
    (failed : c = .invalidStartByte ∨ c = .invalidChecksum) : (slideState c s).resultInv := by
  rcases failed with rfl | rfl <;> simp [State.resultInv, fault, outValid]

/-- Every step keeps the result invariant, in the order of `step_cases`: an operation that writes `fault`, raises `out_valid` or counts a failed
decision writes `last_result` with it. -/
theorem step_keeps_resultInv {s t : State} (inv : s.resultInv) (h : step s = .next t) : t.resultInv := by
  rcases step_cases h with ⟨_, _, rfl⟩ | ⟨_, _, rfl⟩ | ⟨_, _, _, rfl⟩ | ⟨_, _, _, rfl⟩ | ⟨f, _, hf, _, _, _, _, _, rfl⟩ |
    ⟨_, _, hf, hv, _, _, _, _, rfl⟩ | ⟨_, _, hf, hv, _, _, _, rfl⟩ | ⟨_, _, hv, _, rfl⟩ | ⟨_, _, _, _, _, rfl⟩ | ⟨_, _, _, _, rfl⟩
  · exact (restart_sessionStart _).resultInv
  · exact inv
  · obtain ⟨faulted, _, failing⟩ := inv
    exact ⟨faulted, nofun, failing⟩
  · exact inv
  · simp [State.resultInv, hf]
  · exact slideState_resultInv hf hv (.inr rfl)
  · exact slideState_resultInv hf hv (.inl rfl)
  · simp [State.resultInv, hv]
  · exact inv
  · exact inv

/-! ### A filled window -/

section
variable {s : State} (filled : s.windowFilled)
include filled

theorem State.windowFilled.wf : s.W.wf = true := by
  obtain ⟨indices, capacity⟩ := filled
  rw [List.range_eq_range'] at indices
  exact Memory.risesFrom_range' indices (by omega)

theorem State.windowFilled.read_isSome_iff (a : Nat) : (s.W.read a).isSome = true ↔ a < s.cnt.toNat := by
  obtain ⟨bs, window, count, _⟩ := (State.windowFilled_iff s).mp filled
  rw [window, Memory.read_ofBytes, ← count]
  simp

theorem State.windowFilled.cell_eq_read (a : Nat) : s.cell a = s.W.read a := by
  obtain ⟨bs, window, count, _⟩ := (State.windowFilled_iff s).mp filled
  rw [State.cell_ofBytes window count, window, Memory.read_ofBytes]

/-- A step that selects an operation answers its effect. -/
theorem step_of_windowFilled {i : Instr} (hi : selectedOp s = some i) : step s = .next (effect i s.beginStep) :=
  (step_of_selectedOp hi).trans (exec_next.mpr ⟨precondition_of_selectedOp filled.2 hi, rfl⟩)

end

/-! ### The operation each phase takes without reset -/

section
variable {s : State} {i : Input} (go : i.rst = false)
include go

theorem selectedOp_withInput_faulted (phase : s.phase = .faulted) : selectedOp (s.withInput i) = some .faultHold := by
  simp [selectedOp_withInput, go, phase]

theorem selectedOp_withInput_output (phase : s.phase = .output) (ready : i.outReady = true) :
    selectedOp (s.withInput i) = some .outAccept := by
  simp [selectedOp_withInput, go, phase, ready]

theorem selectedOp_withInput_full (phase : s.phase = .full) (filled : s.windowFilled) :
    ∃ f, selectedOp (s.withInput i) = some (classifyFrame f) ∧ snapshot s = .ok f := by
  obtain ⟨_, _, full, _⟩ := s.phase_conditions
  obtain ⟨_, _, count⟩ := full.mp phase
  obtain ⟨f, snap, _⟩ := snapshot_of_full filled count
  exact ⟨f, by simp [selectedOp_withInput, go, phase, snap, Except.toOption], snap⟩

theorem selectedOp_withInput_filling (phase : s.phase = .filling) (noError : i.inError = false) :
    selectedOp (s.withInput i) = if i.inValid then some (.fill i.inByte) else some .idle := by
  simp [selectedOp_withInput, go, phase, noError]

end

/-- A decision reports its code (60_exceptions.md R204). -/
theorem stepOutput_classifyFrame_evt_isSome (f : Frame) (s : State) : (stepOutput (classifyFrame f) s).evt.isSome = true := by
  rw [stepOutput_evt_isSome_iff]
  rcases classifyFrame_cases f with ⟨_, _, row⟩ | ⟨_, _, row⟩ | ⟨_, row⟩ <;> rw [row]
  · exact .inl ⟨f, .inl rfl⟩
  · exact .inl ⟨f, .inr (.inr rfl)⟩
  · exact .inl ⟨f, .inr (.inl rfl)⟩

/-! ### The statements -/

/-- Settles O27: FILL stops where Push does, a failed decode where PopFront does, OUT_ACCEPT where `O` has no value. -/
theorem operationsStopWhereNoCellByteOrFrameIs : Obligations.OperationsStopWhereNoCellByteOrFrameIs :=
  ⟨fun _ _ => execFill_fault.trans (and_iff_right rfl), fun _ _ => slide_fault.trans (and_iff_right rfl),
    fun _ _ => slide_fault.trans (and_iff_right rfl), fun _ => execOutAccept_refused.trans (and_iff_right rfl)⟩

/-- Settles O29: the step by its selection, the input record by whether one is listed. -/
theorem stepAppliesTheDecodedOperation : Obligations.StepAppliesTheDecodedOperation := by
  intro s bs i rest fetched decoded
  refine ⟨step_of_selectedOp (selectedOp_of_decode fetched decoded), ⟨rfl, rfl, rfl, rfl, rfl, rfl, rfl⟩, rfl, fun r rs listed => ?_,
    fun free => ?_⟩
  · simp [State.nextInput, State.nextFreeIndex, listed]
  · simp [State.nextInput, State.nextFreeIndex, free]

/-- Settles O33: in each phase the operation selected reads the inputs named, and a step samples the inputs through it alone. -/
theorem stepSamplesOnlyTheInputsOfItsPhase : Obligations.StepSamplesOnlyTheInputsOfItsPhase := by
  intro s i j rst
  refine ⟨fun reset => ?_, fun phase => ?_, fun phase => ?_, fun phase ready => ?_, fun phase error error' => ?_,
    fun phase error valid byte => ?_⟩ <;> apply step_withInput_congr <;> rw [selectedOp_withInput, selectedOp_withInput, ← rst]
  · rw [if_pos reset, if_pos reset]
  · rw [phase]
  · rw [phase]
  · rw [phase, ready]
  · simp [phase, error, error']
  · rw [phase, error, valid, byte]

/-- Settles O34: the invariant has a filled window, which is all a step needs. -/
theorem noStepStopsUnderTheInvariant : Obligations.NoStepStopsUnderTheInvariant :=
  fun _ inv => exists_step_of_windowFilled inv.1

/-- Settles O35: reset is the start of a session, which meets both. -/
theorem stateAfterResetMeetsTheInvariants : Obligations.StateAfterResetMeetsTheInvariants := by
  have start : State.reset.sessionStart := ⟨rfl, rfl, rfl, rfl, rfl, rfl⟩
  exact ⟨start.Inv, start.resultInv⟩

/-- Settles O37, by the case analysis of a step. -/
theorem stepKeepsTheResultInvariant : Obligations.StepKeepsTheResultInvariant :=
  fun _ _ => step_keeps_resultInv

/-- Settles O38: the window is filled, and a pending frame leaves `fault` and `cnt` at 0. -/
theorem invariantGivesACanonicalWindow : Obligations.InvariantGivesACanonicalWindow := by
  rintro s ⟨filled, empty, faulted, _⟩
  refine ⟨filled.wf, filled.read_isSome_iff, filled.cell_eq_read, ?_, ?_⟩
  · rintro ⟨fault, pending⟩
    cases (faulted fault).symm.trans pending
  · rintro ⟨pending, full⟩
    cases (empty pending).symm.trans full

/-- Settles O44: the operation each phase selects, and its effect. -/
theorem eachPhaseMakesProgress : Obligations.EachPhaseMakesProgress := by
  rintro s i ⟨filled, _⟩ go
  have answers : ∀ {op}, selectedOp (s.withInput i) = some op → step (s.withInput i) = .next (effect op (s.withInput i).beginStep) :=
    step_of_windowFilled (s := s.withInput i) filled
  refine ⟨fun phase => ?_, fun phase ready => ?_, fun phase offered noError => ?_⟩
  · obtain ⟨f, hi, snap⟩ := selectedOp_withInput_full go phase filled
    refine ⟨f, _, hi, snap, answers hi, ?_⟩
    rw [State.evtValid, step_out hi (answers hi)]
    exact stepOutput_classifyFrame_evt_isSome f _
  · exact ⟨_, answers (selectedOp_withInput_output go phase ready), rfl⟩
  · have hi : selectedOp (s.withInput i) = some (.fill i.inByte) := by
      rw [selectedOp_withInput_filling go phase noError, if_pos offered]
    obtain ⟨_, _, room⟩ := (State.phase_eq_filling filled.2).mp phase
    refine ⟨_, answers hi, rfl, ?_⟩
    exact (State.cell_push s i.inByte room s.cnt.toNat).trans (if_pos rfl)

/-- Settles O56: a session starts with an empty window and nothing recorded. -/
theorem sessionStartMeetsTheStreamInvariants : Obligations.SessionStartMeetsTheStreamInvariants := by
  intro r start
  obtain ⟨window, count, _⟩ := id start
  exact ⟨State.holdsLast_of_empty _ window count, followsScan_of_sessionStart start, huntsFirstFrame_of_sessionStart start⟩

end Sys2Proof.Machine

/-! SUPPORT. The proof that a session's results depend on the bytes consumed alone (42_reader_loop.md R178): first the codes reported as those of
the decisions taken. -/

namespace Sys2Proof.Machine

/-- The result code of a decision (60_exceptions.md R200). -/
def Decision.code (d : Decision) : ResultCode :=
  match d.result with
  | .ok _ => .ok
  | .error .invalidStartByte => .invalidStartByte
  | .error .invalidChecksum => .invalidChecksum

/-- The codes reported in a run, in order. -/
def reportedCodes (h : List Event) : List ResultCode := h.filterMap (·.out.evt)

theorem reportedCodes_snoc (h : List Event) (e : Event) : reportedCodes (h ++ [e]) = reportedCodes h ++ e.out.evt.toList := by
  rw [reportedCodes, List.filterMap_append]
  cases report : e.out.evt <;> simp [reportedCodes, report]

/-- But for SOURCE_ERROR, an operation reports the code of the decision it takes, if it takes one (60_exceptions.md R204). -/
theorem stepOutput_evt_of_ne {i : Instr} (noError : i ≠ .sourceError) (s : State) (n : Nat) :
    (stepOutput i s).evt.toList = (decisionOf n i).map Decision.code := by
  cases i with
  | sourceError => exact absurd rfl noError
  | _ => rfl

/-- In a run without a source error the codes reported are those of its decisions. -/
theorem reportedCodes_of_run {r t : State} {h : List Event} (run : Run r h t) (noError : ∀ e ∈ h, e.op ≠ .sourceError) :
    reportedCodes h = (decisions h).map Decision.code := by
  refine run.keeps_record_of_forall (P := fun h _ => reportedCodes h = (decisions h).map Decision.code) (Q := fun i => i ≠ .sourceError)
    (fun h t u i codes allowed hi hs => ?_) rfl noError
  rw [reportedCodes_snoc, decisions_snoc, List.map_append, codes, step_out hi hs, stepOutput_evt_of_ne allowed]

/-- In phase FILLING the bytes consumed settle the decisions of a session, and these the frames delivered (42_reader_loop.md R174). -/
theorem decisions_and_frames_of_filling {r t : State} {h : List Event} (start : r.sessionStart) (run : Run r h t)
    (session : oneSession h) (phase : t.phase = .filling) :
    decisions h = (scan (consumedBytes h)).1 ∧ deliveredFrames h = okFrames (decisions h) := by
  obtain ⟨_, scanned, _, frames, _⟩ := decisionsFollowTheScanOfTheStream r t h start run session
  obtain ⟨_, _, _, filling⟩ := t.phase_conditions
  obtain ⟨_, noFrame, _⟩ := filling.mp phase
  exact ⟨(scanned phase).1, frames noFrame⟩

/-- Settles O52: in phase FILLING the decisions are the whole scan of the bytes consumed, and the codes and the frames delivered are those of the
decisions. -/
theorem resultsDoNotDependOnTiming : Obligations.ResultsDoNotDependOnTiming := by
  intro r r' t t' h h' start start' run run' session session' filling filling' bytes
  obtain ⟨scanned, frames⟩ := decisions_and_frames_of_filling start run session filling
  obtain ⟨scanned', frames'⟩ := decisions_and_frames_of_filling start' run' session' filling'
  have same : decisions h = decisions h' := by rw [scanned, scanned', bytes]
  refine ⟨same, ?_, by rw [frames, frames', same]⟩
  calc reportedCodes h
      = (decisions h).map Decision.code := reportedCodes_of_run run fun e he => (session e he).2
    _ = (decisions h').map Decision.code := by rw [same]
    _ = reportedCodes h' := (reportedCodes_of_run run' fun e he => (session' e he).2).symm

end Sys2Proof.Machine

/-! SUPPORT. The proof of the statement about the stimulus script (30_encoding.md R93): a block that is not faulted comes to phase FILLING within
two steps that a ready consumer does not stall. -/

namespace Sys2Proof.Machine

/-! ### The steps to phase FILLING -/

/-- The most steps from a phase to FILLING, with a ready consumer and no reset (42_reader_loop.md R170). A faulted session takes none: it stays. -/
def Phase.stepsToFilling : Phase → Nat
  | .faulted => 0
  | .filling => 0
  | .output => 1
  | .full => 2

theorem Phase.stepsToFilling_le (p : Phase) : p.stepsToFilling ≤ 2 := by cases p <;> decide

/-- OUTPUT and FULL: the phases that take no byte and from which the block comes to FILLING. -/
theorem State.phase_of_stepsToFilling_pos {s : State} (busy : 0 < s.phase.stepsToFilling) : s.phase = .output ∨ s.phase = .full := by
  cases phase : s.phase <;> simp_all [Phase.stepsToFilling]

theorem State.phase_of_stepsToFilling_eq_zero {s : State} (there : s.phase.stepsToFilling = 0) :
    s.phase = .filling ∨ s.phase = .faulted := by
  cases phase : s.phase <;> simp_all [Phase.stepsToFilling]

/-- While the block comes to FILLING it selects none of the operations that a pseudo-operation of the script ends on. -/
theorem selectedOp_of_stepsToFilling_pos {s : State} {i : Instr} (busy : 0 < s.phase.stepsToFilling) (hi : selectedOp s = some i) :
    (∀ b, i ≠ .fill b) ∧ i ≠ .idle ∧ i ≠ .faultHold := by
  have taken := takenIn_of_selectedOp hi
  have notThere : s.phase ≠ .filling ∧ s.phase ≠ .faulted := by
    rcases State.phase_of_stepsToFilling_pos busy with phase | phase <;> simp [phase]
  obtain ⟨notFilling, notFaulted⟩ := notThere
  refine ⟨?_, ?_, ?_⟩
  · rintro b rfl
    exact notFilling taken
  · rintro rfl
    exact notFilling taken
  · rintro rfl
    exact notFaulted taken

/-- A decision leads to OUTPUT or to FILLING (42_reader_loop.md R170). -/
theorem phase_of_decision {s t : State} {f : Frame} (inv : s.Inv) (hi : selectedOp s = some (classifyFrame f))
    (hs : step s = .next t) : t.phase = .output ∨ t.phase = .filling := by
  obtain ⟨_, _, _, _, emits, slides, _⟩ := phaseTransitionsAreTheTable s t _ inv hi hs
  rcases classifyFrame_cases f with ⟨_, _, row⟩ | ⟨_, _, row⟩ | ⟨_, row⟩
  · obtain ⟨_, output, _⟩ := emits f row
    exact .inl output
  · obtain ⟨_, filling, _⟩ := slides f (.inr row)
    exact .inr filling
  · obtain ⟨_, filling, _⟩ := slides f (.inl row)
    exact .inr filling

theorem State.fault_of_phase_ne {s : State} (h : s.phase ≠ .faulted) : s.fault = false := by
  obtain ⟨faulted, _⟩ := s.phase_conditions
  exact Bool.eq_false_iff.mpr (mt faulted.mpr h)

/-- Each step without reset, with a ready consumer, takes the block closer to FILLING. -/
theorem exists_step_closer_to_filling {s : State} {i : Input} (inv : s.Inv) (go : i.rst = false) (ready : i.outReady = true)
    (busy : 0 < s.phase.stepsToFilling) :
    ∃ op t, selectedOp (s.withInput i) = some op ∧ step (s.withInput i) = .next t ∧ t.Inv ∧ t.fault = false ∧
      t.phase.stepsToFilling < s.phase.stepsToFilling := by
  have filled : (s.withInput i).windowFilled := inv.1
  rcases State.phase_of_stepsToFilling_pos busy with phase | phase
  · have hi := selectedOp_withInput_output go phase ready
    have hs := step_of_windowFilled filled hi
    obtain ⟨_, _, _, _, _, _, delivers, _⟩ := phaseTransitionsAreTheTable (s.withInput i) _ _ inv hi hs
    obtain ⟨_, next, _⟩ := delivers rfl
    exact ⟨_, _, hi, hs, step_keeps_Inv (s := s.withInput i) inv hs, State.fault_of_phase_ne (by simp [next]),
      by simp [next, phase, Phase.stepsToFilling]⟩
  · obtain ⟨f, hi, _⟩ := selectedOp_withInput_full go phase filled
    have hs := step_of_windowFilled filled hi
    have inv' := step_keeps_Inv (s := s.withInput i) inv hs
    rcases phase_of_decision (s := s.withInput i) inv hi hs with next | next <;>
      exact ⟨_, _, hi, hs, inv', State.fault_of_phase_ne (by simp [next]), by simp [next, phase, Phase.stepsToFilling]⟩

/-! ### The pseudo-operations of the script -/

theorem State.offer_eq_withInput (s : State) (l : ScriptLine) : s.offer l = s.withInput l.toInput := rfl

section
variable {s t : State} {i : Instr} {b : Byte} (n : Nat)

theorem feedByte_of_fill {c : Byte} (hi : selectedOp (s.offer ⟨.byte b, false⟩) = some (.fill c))
    (hs : runLine ⟨.byte b, false⟩ s = .next t) : feedByte b (n + 1) s = .consumed t := by
  simp only [feedByte, hi, hs]

theorem feedByte_of_faultHold (hi : selectedOp (s.offer ⟨.byte b, false⟩) = some .faultHold)
    (hs : runLine ⟨.byte b, false⟩ s = .next t) : feedByte b (n + 1) s = .faulted t := by
  simp only [feedByte, hi, hs]

theorem feedByte_of_ne (notFill : ∀ c, i ≠ .fill c) (notHold : i ≠ .faultHold)
    (hi : selectedOp (s.offer ⟨.byte b, false⟩) = some i) (hs : runLine ⟨.byte b, false⟩ s = .next t) :
    feedByte b (n + 1) s = feedByte b n t := by
  simp only [feedByte, hi, hs]

theorem settle_of_idle_or_faultHold (ends : i = .idle ∨ i = .faultHold) (hi : selectedOp (s.offer ⟨.nop, false⟩) = some i)
    (hs : runLine ⟨.nop, false⟩ s = .next t) : settle (n + 1) s = some t := by
  rcases ends with rfl | rfl <;> simp only [settle, hi, hs]

theorem settle_of_ne (notIdle : i ≠ .idle) (notHold : i ≠ .faultHold) (hi : selectedOp (s.offer ⟨.nop, false⟩) = some i)
    (hs : runLine ⟨.nop, false⟩ s = .next t) : settle (n + 1) s = settle n t := by
  simp only [settle, hi, hs]

/-- A byte offered in phase FILLING is consumed in that step. -/
theorem exists_feedByte_of_filling (b : Byte) (filled : s.windowFilled) (phase : s.phase = .filling) :
    ∃ t, feedByte b (n + 1) s = .consumed t ∧ t.cnt ≠ 0 := by
  have hi : selectedOp (s.offer ⟨.byte b, false⟩) = some (.fill b) := selectedOp_withInput_filling rfl phase rfl
  obtain ⟨_, _, room⟩ := (State.phase_eq_filling filled.2).mp phase
  refine ⟨_, feedByte_of_fill n hi (step_of_windowFilled (s := s.offer _) filled hi), fun empty => ?_⟩
  have count : (s.cnt + 1).toNat = s.cnt.toNat + 1 := cnt_succ_toNat room
  rw [show s.cnt + 1 = 0 from empty] at count
  cases count

/-- SETTLE ends with the step that waits for a byte or holds the fault. -/
theorem exists_settle_of_filling_or_faulted (filled : s.windowFilled) (phase : s.phase = .filling ∨ s.phase = .faulted) :
    ∃ t, settle (n + 1) s = some t ∧ (t.phase = .filling ∨ t.phase = .faulted) := by
  have selects : ∃ i, (i = .idle ∨ i = .faultHold) ∧ selectedOp (s.offer ⟨.nop, false⟩) = some i := by
    rcases phase with phase | phase
    · exact ⟨_, .inl rfl, selectedOp_withInput_filling rfl phase rfl⟩
    · exact ⟨_, .inr rfl, selectedOp_withInput_faulted rfl phase⟩
  obtain ⟨i, ends, hi⟩ := selects
  refine ⟨_, settle_of_idle_or_faultHold n ends hi (step_of_windowFilled (s := s.offer _) filled hi), ?_⟩
  rcases ends with rfl | rfl <;> exact phase

end

/-- A byte offered to a block that is not faulted is consumed once FILLING is reached. -/
theorem exists_feedByte_consumed (b : Byte) {n : Nat} {s : State} (inv : s.Inv) (fault : s.fault = false)
    (enough : s.phase.stepsToFilling < n) : ∃ t, feedByte b n s = .consumed t ∧ t.cnt ≠ 0 := by
  induction n generalizing s with
  | zero => cases enough
  | succ n ih =>
    rcases Nat.eq_zero_or_pos s.phase.stepsToFilling with there | busy
    · obtain ⟨faulted, _⟩ := s.phase_conditions
      rcases State.phase_of_stepsToFilling_eq_zero there with phase | phase
      · exact exists_feedByte_of_filling n b inv.1 phase
      · cases fault.symm.trans (faulted.mp phase)
    · obtain ⟨i, t, hi, hs, inv', fault', closer⟩ :=
        exists_step_closer_to_filling (i := ScriptLine.toInput ⟨.byte b, false⟩) inv rfl rfl busy
      obtain ⟨notFill, _, notHold⟩ := selectedOp_of_stepsToFilling_pos (s := s.withInput _) busy hi
      rw [feedByte_of_ne n notFill notHold hi hs]
      exact ih inv' fault' (by omega)

/-- SETTLE goes on until FILLING is reached, and ends at once in a faulted block. -/
theorem exists_settle_eq_some {n : Nat} {s : State} (inv : s.Inv) (enough : s.phase.stepsToFilling < n) :
    ∃ t, settle n s = some t ∧ (t.phase = .filling ∨ t.phase = .faulted) := by
  induction n generalizing s with
  | zero => cases enough
  | succ n ih =>
    rcases Nat.eq_zero_or_pos s.phase.stepsToFilling with there | busy
    · exact exists_settle_of_filling_or_faulted n inv.1 (State.phase_of_stepsToFilling_eq_zero there)
    · obtain ⟨i, t, hi, hs, inv', _, closer⟩ :=
        exists_step_closer_to_filling (i := ScriptLine.toInput ⟨.nop, false⟩) inv rfl rfl busy
      obtain ⟨_, notIdle, notHold⟩ := selectedOp_of_stepsToFilling_pos (s := s.withInput _) busy hi
      rw [settle_of_ne n notIdle notHold hi hs]
      exact ih inv' (by omega)

/-- Settles O55: at most two steps lead to FILLING, and the third consumes the byte or waits for one. -/
theorem feedAndSettleEndWithinThreeSteps : Obligations.FeedAndSettleEndWithinThreeSteps := by
  intro s b inv
  have enough : s.phase.stepsToFilling < 3 := Nat.lt_succ_of_le s.phase.stepsToFilling_le
  refine ⟨fun fault => exists_feedByte_consumed b inv fault enough, fun fault => ?_, exists_settle_eq_some inv enough⟩
  obtain ⟨faulted, _⟩ := s.phase_conditions
  have hi := selectedOp_withInput_faulted (i := ScriptLine.toInput ⟨.byte b, false⟩) rfl (faulted.mpr fault)
  exact ⟨_, feedByte_of_faultHold 0 hi (step_of_windowFilled (s := s.withInput _) inv.1 hi), rfl, rfl, rfl, rfl, rfl, rfl, rfl⟩

end Sys2Proof.Machine
